-- ==== Sys2Proof/Word.lean ====
section
/-! DEFINITION. The units every other file is written in: the 32-bit word of both ports (R11, R44), the 8-bit
field of a command word (R55) and the pattern of a binary32 value (R12, R13). -/

namespace Sys2Proof

/-- One word of a port: 32 bits, bit 0 least significant (R11, R44). -/
abbrev Word := BitVec 32

/-- One 8-bit field of a command word (R55), or one byte of a byte transport (R44). -/
abbrev Byte := BitVec 8

/-- An IEEE 754 binary32 value, held as its 32-bit pattern: sign 31, exponent 30:23, fraction 22:0 (R12, R44).
`as_f32` and `bits32` of R13 are then both the identity. -/
abbrev F32 := BitVec 32

end Sys2Proof
end

