-- ==== Sys2Proof/Config.lean ====
section
/-! DEFINITION. The configuration of R6 to R9 and the noise draws of R36: every constant here has no body, so no proof
can use its value and every theorem holds for all of them (log entries 1 to 4 and 14). -/

namespace Sys2Proof

/-- `NV - 1` for the legal range 1 to 16 of R6. -/
opaque Config.numVoicesLess1 : Fin 16

/-- `MAX_MODES - 1` for the legal range 1 to 256 of R7. -/
opaque Config.maxModesLess1 : Fin 256

/-- `NV`, the number of voices, 1 to 16 (R6). -/
def Config.NV : Nat := Config.numVoicesLess1.val + 1

/-- `MAX_MODES`, the resonators of each voice, 1 to 256 (R7). -/
def Config.MAX_MODES : Nat := Config.maxModesLess1.val + 1

/-- What the sine of R8 answers where no law of 93_implementation_defined.md I3 fixes its result. -/
opaque Config.sinRaw : F32 → F32

/-- What the cosine of R8 answers where no law of I3 fixes its result. -/
opaque Config.cosRaw : F32 → F32

/-- What the hyperbolic sine of R8 answers where no law of I3 fixes its result. -/
opaque Config.sinhRaw : F32 → F32

/-- What the power function of R8 answers where no law of I3 fixes its result. -/
opaque Config.powRaw : F32 → F32 → F32

/-- `IMPTRAIN(phase, inc)`, the band-limited impulse train of R9 and R77. -/
opaque Config.impTrain : F32 → F32 → F32

/-- `K_IMPULSES` of R9. -/
opaque Config.kImpulses : F32

/-- `K_SQUARE` of R9. -/
opaque Config.kSquare : F32

/-- `K_CHIRP` of R9. -/
opaque Config.kChirp : F32

/-- The `k`-th noise draw since power-on, before it is held in the range of R124. -/
opaque Config.noiseRaw : Nat → F32

/-- Whether the phase of a phasor of infinite frequency becomes NaN, as the table of R165 says, or the infinity that R68
computes: the spec gives both and settles neither (log entry 14). -/
opaque Config.infiniteFreqMakesNaN : Bool

end Sys2Proof
end

