-- ==== Sys2Proof/Machine/Float32.lean ====
section
/-! DEFINITION. Binary32 arithmetic as R12 to R17 fix it: exact integers in units of 2^-149, one rounding to nearest
even at the end, the canonical NaN, ordered comparisons, and the transcendental functions of R8 with the special values
of 93_implementation_defined.md I3. The operations are irreducible, so that comparing two states never evaluates one.
-/

namespace Sys2Proof.Machine

/-! ## The parts of a value (R12, R44) -/

/-- The canonical quiet NaN of R12, which every arithmetic result that is NaN returns. -/
def qnan : F32 := 0x7FC00000#32

/-- +infinity. -/
def posInf : F32 := 0x7F800000#32

/-- -infinity. -/
def negInf : F32 := 0xFF800000#32

/-- Bit 31. -/
def signBit (x : F32) : Bool := x.msb

/-- Bits 30:0 as a number. On values that are not NaN it grows with the absolute value. -/
def magBits (x : F32) : Nat := x.toNat % 0x80000000

/-- The value is NaN. -/
def isNaN (x : F32) : Bool := decide (0x7F800000 < magBits x)

/-- The value is one of the two infinities. -/
def isInf (x : F32) : Bool := magBits x == 0x7F800000

/-- The value is neither NaN nor infinite. -/
def isFinite (x : F32) : Bool := decide (magBits x < 0x7F800000)

/-- The value is +0 or -0. -/
def isZero (x : F32) : Bool := magBits x == 0

/-- What a finite value's magnitude bits stand for, in units of 2^-149, the least positive binary32: a subnormal is its
fraction, a normal value its 24-bit significand times two to the exponent field less one. -/
def unitsOfMag (m : Nat) : Nat :=
  if m / 0x800000 = 0 then m % 0x800000 else (0x800000 + m % 0x800000) * 2 ^ (m / 0x800000 - 1)

/-- The absolute value of a finite value, in units of 2^-149. -/
@[irreducible] def magUnits (x : F32) : Nat := unitsOfMag (magBits x)

/-- A finite value as an exact integer number of units of 2^-149. -/
@[irreducible] def units (x : F32) : Int := if signBit x then -(magUnits x : Int) else (magUnits x : Int)

/-! ## Rounding (R12) -/

/-- The magnitude bits nearest to `n / d` units, ties to even, as if the exponent had no bound. `e` is how far the last of
the 24 significand bits lies above one unit; a significand that rounds up to 2^24 carries into the exponent by itself. -/
def roundCode (n d : Nat) : Nat :=
  let q := n / d
  let e := if q < 0x1000000 then 0 else Nat.log2 q - 23
  let u := d * 2 ^ e
  let m := n / u
  let r := n % u
  let m' := if u < 2 * r ∨ (2 * r = u ∧ m % 2 = 1) then m + 1 else m
  e * 0x800000 + m'

/-- The magnitude bits of the binary32 nearest to `n / d` units: infinity where the exponent passes its bound. -/
@[irreducible] def roundMag (n d : Nat) : Nat := min (roundCode n d) 0x7F800000

/-- A value from its sign and magnitude bits. -/
@[irreducible] def withSign (neg : Bool) (mag : Nat) : F32 :=
  BitVec.ofNat 32 (if neg then 0x80000000 + mag else mag)

/-! ## Operations (R12) -/

/-- Unary minus: flips the sign bit, of a NaN too. -/
@[irreducible] def fneg (x : F32) : F32 := x ^^^ 0x80000000#32

/-- `|x|`: clears the sign bit, of a NaN too. -/
@[irreducible] def fabs (x : F32) : F32 := x &&& 0x7FFFFFFF#32

/-- `x + y`. An exact sum of zero is -0 only where both operands are negative zeros. -/
@[irreducible] def fadd (x y : F32) : F32 :=
  if isNaN x || isNaN y then qnan
  else if isInf x then (if isInf y && (signBit x != signBit y) then qnan else x)
  else if isInf y then y
  else
    let s := units x + units y
    if s = 0 then withSign (signBit x && signBit y) 0
    else withSign (decide (s < 0)) (roundMag s.natAbs 1)

/-- `x - y`. -/
def fsub (x y : F32) : F32 := fadd x (fneg y)

/-- `x * y`. -/
@[irreducible] def fmul (x y : F32) : F32 :=
  let neg := signBit x != signBit y
  if isNaN x || isNaN y then qnan
  else if isInf x || isInf y then (if isZero x || isZero y then qnan else withSign neg 0x7F800000)
  else withSign neg (roundMag (magUnits x * magUnits y) (2 ^ 149))

/-- `x / y`. -/
@[irreducible] def fdiv (x y : F32) : F32 :=
  let neg := signBit x != signBit y
  if isNaN x || isNaN y then qnan
  else if isInf x then (if isInf y then qnan else withSign neg 0x7F800000)
  else if isInf y then withSign neg 0
  else if isZero y then (if isZero x then qnan else withSign neg 0x7F800000)
  else withSign neg (roundMag (magUnits x * 2 ^ 149) (magUnits y))

/-- `f32(n)` of R14. -/
@[irreducible] def f32OfNat (n : Nat) : F32 := withSign false (roundMag (n * 2 ^ 149) 1)

/-! ## Comparisons (R13) -/

/-- The place of a value that is not NaN in the order of the reals and infinities; both zeros share one. -/
def orderKey (x : F32) : Int := if signBit x then -(magBits x : Int) else (magBits x : Int)

/-- `x < y`, false where either is NaN. -/
@[irreducible] def flt (x y : F32) : Bool := !isNaN x && !isNaN y && decide (orderKey x < orderKey y)

/-- `x <= y`, false where either is NaN. -/
@[irreducible] def fle (x y : F32) : Bool := !isNaN x && !isNaN y && decide (orderKey x ≤ orderKey y)

/-- `x > y`. -/
def fgt (x y : F32) : Bool := flt y x

/-- `x >= y`. -/
def fge (x y : F32) : Bool := fle y x

/-! ## Constants (R16), by their patterns -/

/-- +0. -/
def C.zero : F32 := 0x00000000#32
/-- 0.5. -/
def C.half : F32 := 0x3F000000#32
/-- 1. -/
def C.one : F32 := 0x3F800000#32
/-- -1. -/
def C.negOne : F32 := 0xBF800000#32
/-- 2. -/
def C.two : F32 := 0x40000000#32
/-- -2. -/
def C.negTwo : F32 := 0xC0000000#32
/-- 4, of R72. -/
def C.four : F32 := 0x40800000#32
/-- 10. -/
def C.ten : F32 := 0x41200000#32
/-- 12. -/
def C.twelve : F32 := 0x41400000#32
/-- 20. -/
def C.twenty : F32 := 0x41A00000#32
/-- 69. -/
def C.n69 : F32 := 0x428A0000#32
/-- 270. -/
def C.n270 : F32 := 0x43870000#32
/-- 390. -/
def C.n390 : F32 := 0x43C30000#32
/-- 440. -/
def C.n440 : F32 := 0x43DC0000#32
/-- 840. -/
def C.n840 : F32 := 0x44520000#32
/-- 1320. -/
def C.n1320 : F32 := 0x44A50000#32
/-- 1450. -/
def C.n1450 : F32 := 0x44B54000#32
/-- 1690. -/
def C.n1690 : F32 := 0x44D34000#32
/-- 3500. -/
def C.n3500 : F32 := 0x455AC000#32
/-- 19980. -/
def C.n19980 : F32 := 0x469C1800#32
/-- 20000. -/
def C.n20000 : F32 := 0x469C4000#32
/-- 48000, the reset sample rate of R20. -/
def C.n48000 : F32 := 0x473B8000#32
/-- TWO_PI32. -/
def C.twoPi : F32 := 0x40C90FDB#32
/-- LN2_32. -/
def C.ln2 : F32 := 0x3F317218#32
/-- C_0P001. -/
def C.c0p001 : F32 := 0x3A83126F#32
/-- C_0P1. -/
def C.c0p1 : F32 := 0x3DCCCCCD#32
/-- C_0P05. -/
def C.c0p05 : F32 := 0x3D4CCCCD#32
/-- 0.01, the reset attack time of R25. -/
def C.c0p01 : F32 := 0x3C23D70A#32

/-! ## frac and clamp01 (R17) -/

/-- `frac(x)`: at most one subtraction. -/
def frac (x : F32) : F32 := if fge x C.one then fsub x C.one else x

/-- `clamp01(x)`: NaN gives +0. -/
def clamp01 (x : F32) : F32 :=
  if fge x C.one then C.one
  else if flt C.zero x && flt x C.one then x
  else C.zero

/-! ## Transcendental functions (R8, I3) -/

/-- A result of an operation, with every NaN made canonical (R12). -/
def canonical (x : F32) : F32 := if isNaN x then qnan else x

/-- The value is finite and an integer. -/
def isIntegral (x : F32) : Bool := isFinite x && magUnits x % 2 ^ 149 == 0

/-- `SIN32(x)`: NaN at NaN and at the infinities, itself at both zeros, else what the configuration answers. -/
@[irreducible] def sin32 (x : F32) : F32 :=
  if isNaN x || isInf x then qnan
  else if isZero x then x
  else canonical (Config.sinRaw x)

/-- `COS32(x)`: NaN at NaN and at the infinities, 1 at both zeros, else what the configuration answers. -/
@[irreducible] def cos32 (x : F32) : F32 :=
  if isNaN x || isInf x then qnan
  else if isZero x then C.one
  else canonical (Config.cosRaw x)

/-- `SINH32(x)`: NaN at NaN, itself at both zeros, else what the configuration answers. -/
@[irreducible] def sinh32 (x : F32) : F32 :=
  if isNaN x then qnan
  else if isZero x then x
  else canonical (Config.sinhRaw x)

/-- `POW32(x, y)` under the laws of I3, the two that hold for NaN first. -/
@[irreducible] def pow32 (x y : F32) : F32 :=
  if isZero y then C.one
  else if x == C.one then C.one
  else if isNaN x || isNaN y then qnan
  else if x == C.ten && y == negInf then C.zero
  else if y == posInf && fle C.zero x && flt x C.one then C.zero
  else if isFinite x && flt x C.zero && isFinite y && !isIntegral y then qnan
  else canonical (Config.powRaw x y)

/-! ## Noise (R124) -/

/-- The `k`-th noise draw: any value with `-C_0P05 <= n <= C_0P05`, and nothing else is known of it. -/
@[irreducible] def noiseDraw (k : Nat) : F32 :=
  if fle (fneg C.c0p05) (Config.noiseRaw k) && fle (Config.noiseRaw k) C.c0p05 then Config.noiseRaw k
  else C.zero

end Sys2Proof.Machine
end

