-- ==== Sys2Proof/Machine/Parts.lean ====
section
/-! DEFINITION. The state of each unit as plain data: the enumerations of R26 and R32, and the registers of a phasor,
an envelope, a biquad, a formant band, a resonator and a voice (R25, R27 to R35). -/

namespace Sys2Proof.Machine

/-- EXC_KIND (R26). -/
inductive ExcKind where
  | noise | impulses | square | chirp | impulse
deriving DecidableEq, Repr

/-- FOLD_MODE (R26). -/
inductive FoldMode where
  | nyquistStop | undertones | foldback
deriving DecidableEq, Repr

/-- FMT_ARCH (R26). -/
inductive FmtArch where
  | parallel | cascade
deriving DecidableEq, Repr

/-- ENV_TYPE (R26). -/
inductive EnvType where
  | ahr | ar
deriving DecidableEq, Repr

/-- The biquad type BT (R26). -/
inductive BiquadType where
  | lpf | hpf | apf | bpfCsg | bpfCpg | notch | stkNotch
deriving DecidableEq, Repr

/-- The envelope state (R32). -/
inductive EnvState where
  | rest | attack | hold | release
deriving DecidableEq, Repr

/-- The parameter ids of R25, 0x00 to 0x12 in this order. -/
inductive ParamId where
  | modeCount | inharm | exponent | falloff | decay | evenGain | foldMode | foldPoint | excRate
  | excKind | attack | release | fmtX | fmtY | fmtZ | fmtLen | fmtMix | fmtArch | envType
deriving DecidableEq, Repr

/-- `V[v].P` (R25). -/
structure Params where
  modeCount : Word
  inharm : F32
  exponent : F32
  falloff : F32
  decay : F32
  evenGain : F32
  foldMode : FoldMode
  foldPoint : F32
  excRate : F32
  excKind : ExcKind
  attack : F32
  release : F32
  fmtX : F32
  fmtY : F32
  fmtZ : F32
  fmtLen : F32
  fmtMix : F32
  fmtArch : FmtArch
  envType : EnvType
deriving DecidableEq, Repr

/-- A phasor: `V[v].EXC`, `V[v].CH.CTL` or `V[v].CH.GEN` (R29, R30). -/
structure Phasor where
  phase : F32
  freq : F32
  inc : F32
deriving DecidableEq, Repr

/-- `V[v].ENV` (R32). -/
structure Envelope where
  state : EnvState
  value : F32
  ainc : F32
  rinc : F32
deriving DecidableEq, Repr

/-- The five normalized coefficients of a biquad (R34). -/
structure Coeffs where
  nb0 : F32
  nb1 : F32
  nb2 : F32
  na1 : F32
  na2 : F32
deriving DecidableEq, Repr

/-- `V[v].FMT.B[b]`: the design, the coefficients and the history (R34). -/
structure Biquad where
  bt : BiquadType
  fc : F32
  q : F32
  co : Coeffs
  x1 : F32
  x2 : F32
  y1 : F32
  y2 : F32
deriving DecidableEq, Repr

/-- One band of the formant filter: `B[b]`, `gain_db[b]` and `gain_lin[b]` (R33). -/
structure Band where
  filter : Biquad
  gainDb : F32
  gainLin : F32
deriving DecidableEq, Repr

/-- `V[v].FMT`: four bands (R10, R33). -/
structure Formant where
  b0 : Band
  b1 : Band
  b2 : Band
  b3 : Band
deriving DecidableEq, Repr

/-- `V[v].RES[m]` (R28). -/
structure Resonator where
  freq : F32
  amp : F32
  decay : F32
  cr : F32
  ci : F32
  yr : F32
  yi : F32
  play : Bool
deriving DecidableEq, Repr

/-- `V[v]` (R18, R25 to R34). The resonators are in index order and there are `MAX_MODES` of them (R35). `p` holds `P`, whose
MODE_COUNT every rule reads as it stands (R35, R111, R116, R119). MODE_COUNT is of class mode: a write of it takes effect
only at the next coefficient update (R25, R125, R187, D23). `modesWritten` is what PARAM_WR last wrote to it, and the update
brings it into `P.MODE_COUNT`. R18 names no such register apart from `P.MODE_COUNT`: holding the write in a field of its own
until it takes effect is a DESIGN CHOICE (unsafe, log entry 13). -/
structure Voice where
  p : Params
  noteFreq : F32
  velocity : F32
  res : List Resonator
  exc : Phasor
  chCtl : Phasor
  chGen : Phasor
  dirty : Bool
  modesWritten : Word
  env : Envelope
  fmt : Formant
deriving DecidableEq, Repr

end Sys2Proof.Machine
end

