-- ==== Sys2Proof/Machine/Envelope.lean ====
section
/-! DEFINITION. The envelope generators AR and AHR of 42_envelope.md (R82 to R91). `sr` is `G.SR`. -/

namespace Sys2Proof.Machine

/-- `1 / (t * G.SR)`, the increment of R82 and R83. -/
def envIncrement (sr t : F32) : F32 := fdiv C.one (fmul t sr)

/-- `env_set_attack(v, t)`, R82. -/
def Voice.setAttack (sr t : F32) (x : Voice) : Voice :=
  { x with p := { x.p with attack := t }, env := { x.env with ainc := envIncrement sr t } }

/-- `env_set_release(v, t)`, R83. -/
def Voice.setRelease (sr t : F32) (x : Voice) : Voice :=
  { x with p := { x.p with release := t }, env := { x.env with rinc := envIncrement sr t } }

/-- `env_set_sample_rate(v)`, R84. -/
def Voice.envSetSampleRate (sr : F32) (x : Voice) : Voice :=
  { x with env := { x.env with ainc := envIncrement sr x.p.attack, rinc := envIncrement sr x.p.release } }

/-- The Attack arm of R85 and R88, which differ in the state they enter at 1. -/
def Envelope.attackTick (atTop : EnvState) (e : Envelope) : Envelope :=
  let x := fadd e.value e.ainc
  if fge x C.one then { e with value := C.one, state := atTop } else { e with value := clamp01 x }

/-- The Release arm of R85 and R88. -/
def Envelope.releaseTick (e : Envelope) : Envelope :=
  let x := fsub e.value e.rinc
  if fle x C.zero then { e with value := C.zero, state := .rest } else { e with value := clamp01 x }

/-- `env_tick(v)` under AHR, R85: the envelope after the tick. -/
def Envelope.tickAhr (e : Envelope) : Envelope :=
  match e.state with
  | .rest => e
  | .attack => e.attackTick .hold
  | .hold => e
  | .release => e.releaseTick

/-- `env_tick(v)` under AR, R88: the envelope after the tick. -/
def Envelope.tickAr (e : Envelope) : Envelope :=
  match e.state with
  | .rest => e
  | .attack => e.attackTick .release
  | .hold => { e with state := .rest, value := C.zero }
  | .release => e.releaseTick

/-- The machine that ENV_TYPE selects (R90). -/
def Envelope.tick (t : EnvType) (e : Envelope) : Envelope :=
  match t with
  | .ahr => e.tickAhr
  | .ar => e.tickAr

/-- What `env_tick` returns for this sample (R85, R88): +0 in Rest, else the value after the update. -/
def Envelope.output (t : EnvType) (e : Envelope) : F32 :=
  match e.state with
  | .rest => C.zero
  | .attack => (e.tick t).value
  | .hold => (e.tick t).value
  | .release => (e.tick t).value

/-- `env_on(v)`, R86: the value is kept. -/
def Envelope.on (e : Envelope) : Envelope := { e with state := .attack }

/-- `env_off(v)`, R87, whatever the current state. -/
def Envelope.off (e : Envelope) : Envelope := { e with state := .release }

/-- `env_ping(v)`, R89. -/
def Envelope.ping (e : Envelope) : Envelope := { e with state := .attack }

/-- `env_trigger(v)`, R90. -/
def Envelope.trigger (t : EnvType) (e : Envelope) : Envelope :=
  match t with
  | .ahr => e.on
  | .ar => e.ping

/-- `env_release(v)`, R90: AR releases itself. -/
def Envelope.releaseNote (t : EnvType) (e : Envelope) : Envelope :=
  match t with
  | .ahr => e.off
  | .ar => e

/-- `env_reset(v)`, R91: the increments are kept. -/
def Envelope.reset (e : Envelope) : Envelope := { e with state := .rest, value := C.zero }

end Sys2Proof.Machine
end

