-- ==== Sys2Proof/Machine/Biquad.lean ====
section
/-! DEFINITION. The biquad filter of 43_biquad.md: the seven designs (R93 to R101), the tick (R102) and the sample-rate
replay (R103). `sr` is `G.SR`. -/

namespace Sys2Proof.Machine

/-- The six raw coefficients that R94 to R100 compute. -/
structure RawCoeffs where
  b0 : F32
  b1 : F32
  b2 : F32
  a0 : F32
  a1 : F32
  a2 : F32
deriving DecidableEq, Repr

/-- `w0` of R93. -/
def bqOmega (sr fc : F32) : F32 := fdiv (fmul C.twoPi fc) sr

/-- `alpha_q` of R93: `q` is the Q. -/
def bqAlphaQ (sn q : F32) : F32 := fdiv sn (fmul C.two q)

/-- `alpha_bw` of R93: `q` is a bandwidth in octaves. -/
def bqAlphaBw (w0 sn q : F32) : F32 :=
  fmul sn (sinh32 (fdiv (fmul (fmul (fmul C.ln2 C.half) q) w0) sn))

/-- LPF, R94. -/
def rawLpf (cs alpha : F32) : RawCoeffs :=
  { b0 := fdiv (fsub C.one cs) C.two, b1 := fsub C.one cs, b2 := fdiv (fsub C.one cs) C.two,
    a0 := fadd C.one alpha, a1 := fmul C.negTwo cs, a2 := fsub C.one alpha }

/-- HPF, R95. -/
def rawHpf (cs alpha : F32) : RawCoeffs :=
  { b0 := fdiv (fadd C.one cs) C.two, b1 := fneg (fadd C.one cs), b2 := fdiv (fadd C.one cs) C.two,
    a0 := fadd C.one alpha, a1 := fmul C.negTwo cs, a2 := fsub C.one alpha }

/-- APF, R96. -/
def rawApf (cs alpha : F32) : RawCoeffs :=
  { b0 := fsub C.one alpha, b1 := fmul C.negTwo cs, b2 := fadd C.one alpha,
    a0 := fadd C.one alpha, a1 := fmul C.negTwo cs, a2 := fsub C.one alpha }

/-- BPF_CSG, R97. -/
def rawBpfCsg (cs sn alpha : F32) : RawCoeffs :=
  { b0 := fdiv sn C.two, b1 := C.zero, b2 := fneg (fdiv sn C.two),
    a0 := fadd C.one alpha, a1 := fmul C.negTwo cs, a2 := fsub C.one alpha }

/-- BPF_CPG, R98. -/
def rawBpfCpg (cs alpha : F32) : RawCoeffs :=
  { b0 := alpha, b1 := C.zero, b2 := fneg alpha,
    a0 := fadd C.one alpha, a1 := fmul C.negTwo cs, a2 := fsub C.one alpha }

/-- NOTCH, R99. -/
def rawNotch (cs alpha : F32) : RawCoeffs :=
  { b0 := C.one, b1 := fmul C.negTwo cs, b2 := C.one,
    a0 := fadd C.one alpha, a1 := fmul C.negTwo cs, a2 := fsub C.one alpha }

/-- STK_NOTCH, R100: `q` is the radius. -/
def rawStkNotch (cs q : F32) : RawCoeffs :=
  let z2 := fmul q q
  let z1 := fmul (fmul C.negTwo q) cs
  let g :=
    if fgt z1 C.zero then fdiv C.one (fadd (fadd C.one z1) z2)
    else fdiv C.one (fadd (fsub C.one z1) z2)
  { b0 := g, b1 := fmul z1 g, b2 := fmul z2 g, a0 := C.one, a1 := C.zero, a2 := C.zero }

/-- The raw coefficients of a design (R93 to R100). -/
def bqRaw (sr : F32) (t : BiquadType) (fc q : F32) : RawCoeffs :=
  let w0 := bqOmega sr fc
  let cs := cos32 w0
  let sn := sin32 w0
  match t with
  | .lpf => rawLpf cs (bqAlphaQ sn q)
  | .hpf => rawHpf cs (bqAlphaQ sn q)
  | .apf => rawApf cs (bqAlphaQ sn q)
  | .bpfCsg => rawBpfCsg cs sn (bqAlphaQ sn q)
  | .bpfCpg => rawBpfCpg cs (bqAlphaBw w0 sn q)
  | .notch => rawNotch cs (bqAlphaBw w0 sn q)
  | .stkNotch => rawStkNotch cs q

/-- The normalized coefficients: every raw one divided by `a0` (R101). -/
def RawCoeffs.normalized (r : RawCoeffs) : Coeffs :=
  { nb0 := fdiv r.b0 r.a0, nb1 := fdiv r.b1 r.a0, nb2 := fdiv r.b2 r.a0,
    na1 := fdiv r.a1 r.a0, na2 := fdiv r.a2 r.a0 }

/-- `bq_design(B, t, fc, q)`, R101: the history is kept. -/
def Biquad.design (sr : F32) (t : BiquadType) (fc q : F32) (b : Biquad) : Biquad :=
  { b with bt := t, fc := fc, q := q, co := (bqRaw sr t fc q).normalized }

/-- `bq_set_sample_rate(B)`, R103: the last design again. -/
def Biquad.setSampleRate (sr : F32) (b : Biquad) : Biquad := b.design sr b.bt b.fc b.q

/-- The output of `bq_tick(B, x)`, R102: a NaN or infinite one is replaced by +0. -/
def Biquad.output (b : Biquad) (x : F32) : F32 :=
  let y := fsub (fsub (fadd (fadd (fmul b.co.nb0 x) (fmul b.co.nb1 b.x1)) (fmul b.co.nb2 b.x2))
    (fmul b.co.na1 b.y1)) (fmul b.co.na2 b.y2)
  if isNaN y || isInf y then C.zero else y

/-- `bq_tick(B, x)`, R102: the filter after the tick. The input enters the history as it is, the output after the
replacement. -/
def Biquad.tick (b : Biquad) (x : F32) : Biquad :=
  { b with x2 := b.x1, x1 := x, y2 := b.y1, y1 := b.output x }

end Sys2Proof.Machine
end

