-- ==== Sys2Proof/Machine/Formant.lean ====
section
/-! DEFINITION. The formant filter of 46_formant.md (R131 to R136). `sr` is `G.SR`. -/

namespace Sys2Proof.Machine

/-- Apply `f` to band `b`; there are four (R33). -/
def Formant.onBand (b : Nat) (f : Band → Band) (m : Formant) : Formant :=
  match b with
  | 0 => { m with b0 := f m.b0 }
  | 1 => { m with b1 := f m.b1 }
  | 2 => { m with b2 := f m.b2 }
  | 3 => { m with b3 := f m.b3 }
  | _ => m

/-- Redesign the biquad of one band. -/
def Band.design (sr : F32) (t : BiquadType) (fc q : F32) (b : Band) : Band :=
  { b with filter := b.filter.design sr t fc q }

/-- `r` of R131, the throat-length ratio. -/
def throatRatio (p : Params) : F32 := fadd C.one (fmul p.fmtLen C.half)

/-- `F1` of R131. -/
def formantF1 (p : Params) : F32 := fmul (fadd C.n270 (fmul p.fmtX C.n390)) (throatRatio p)

/-- `F2` of R131. -/
def formantF2 (p : Params) : F32 := fmul (fadd C.n840 (fmul p.fmtY C.n1450)) (throatRatio p)

/-- `F3` of R131. -/
def formantF3 (p : Params) : F32 := fmul (fadd C.n1690 (fmul p.fmtZ C.n1320)) (throatRatio p)

/-- `F4` of R131. -/
def formantF4 (p : Params) : F32 := fmul C.n3500 (throatRatio p)

/-- `fmt_set_vowel(v)`, R132: every band a constant-peak-gain bandpass of 0.1 octave. -/
def Voice.setVowel (sr : F32) (x : Voice) : Voice :=
  { x with
    fmt :=
      { b0 := x.fmt.b0.design sr .bpfCpg (formantF1 x.p) C.c0p1
        b1 := x.fmt.b1.design sr .bpfCpg (formantF2 x.p) C.c0p1
        b2 := x.fmt.b2.design sr .bpfCpg (formantF3 x.p) C.c0p1
        b3 := x.fmt.b3.design sr .bpfCpg (formantF4 x.p) C.c0p1 } }

/-- `db_to_gain(g)`, R133. -/
def dbToGain (g : F32) : F32 := pow32 C.ten (fdiv g C.twenty)

/-- `fmt_set_gain(v, b, g)` on its band, R134. -/
def Band.setGain (g : F32) (b : Band) : Band := { b with gainDb := g, gainLin := dbToGain g }

/-- One band's filter ticked on `x`. -/
def Band.tick (x : F32) (b : Band) : Band := { b with filter := b.filter.tick x }

/-- One band's term of the sums of R135. -/
def Band.weighted (y : F32) (b : Band) : F32 := fmul b.gainLin y

/-- The Parallel arm of `fmt_tick(v, x)`, R135. -/
def Formant.tickParallel (x : F32) (m : Formant) : F32 × Formant :=
  let a0 := fadd C.zero (m.b0.weighted (m.b0.filter.output x))
  let a1 := fadd a0 (m.b1.weighted (m.b1.filter.output x))
  let a2 := fadd a1 (m.b2.weighted (m.b2.filter.output x))
  let a3 := fadd a2 (m.b3.weighted (m.b3.filter.output x))
  (a3, { b0 := m.b0.tick x, b1 := m.b1.tick x, b2 := m.b2.tick x, b3 := m.b3.tick x })

/-- The Cascade arm of `fmt_tick(v, x)`, R135: serial filtering with a gain tap after each stage. -/
def Formant.tickCascade (x : F32) (m : Formant) : F32 × Formant :=
  let s0 := m.b0.filter.output x
  let s1 := m.b1.filter.output s0
  let s2 := m.b2.filter.output s1
  let s3 := m.b3.filter.output s2
  let a0 := fadd C.zero (m.b0.weighted s0)
  let a1 := fadd a0 (m.b1.weighted s1)
  let a2 := fadd a1 (m.b2.weighted s2)
  let a3 := fadd a2 (m.b3.weighted s3)
  (a3, { b0 := m.b0.tick x, b1 := m.b1.tick s0, b2 := m.b2.tick s1, b3 := m.b3.tick s2 })

/-- `fmt_tick(v, x)`, R135: the output and the filter after the tick. -/
def Formant.tick (arch : FmtArch) (x : F32) (m : Formant) : F32 × Formant :=
  match arch with
  | .parallel => m.tickParallel x
  | .cascade => m.tickCascade x

/-- `bq_set_sample_rate` on one band's filter. -/
def Band.setSampleRate (sr : F32) (b : Band) : Band := { b with filter := b.filter.setSampleRate sr }

/-- `fmt_set_sample_rate(v)`, R136: the gains and histories are kept. -/
def Formant.setSampleRate (sr : F32) (m : Formant) : Formant :=
  { b0 := m.b0.setSampleRate sr, b1 := m.b1.setSampleRate sr,
    b2 := m.b2.setSampleRate sr, b3 := m.b3.setSampleRate sr }

end Sys2Proof.Machine
end

