-- ==== Sys2Proof/Machine/Params.lean ====
section
/-! DEFINITION. The parameter registers `V[v].P` as PARAM_WR sees them: the ids and enumeration codes of R25 and R26,
the pattern a register holds, and the write of one register of one voice (R121, R125). `sr` is `G.SR`. -/

namespace Sys2Proof.Machine

/-- The parameter of an id; there is none above 0x12 (R25). -/
def ParamId.ofByte (b : Byte) : Option ParamId :=
  match b.toNat with
  | 0x00 => some .modeCount
  | 0x01 => some .inharm
  | 0x02 => some .exponent
  | 0x03 => some .falloff
  | 0x04 => some .decay
  | 0x05 => some .evenGain
  | 0x06 => some .foldMode
  | 0x07 => some .foldPoint
  | 0x08 => some .excRate
  | 0x09 => some .excKind
  | 0x0A => some .attack
  | 0x0B => some .release
  | 0x0C => some .fmtX
  | 0x0D => some .fmtY
  | 0x0E => some .fmtZ
  | 0x0F => some .fmtLen
  | 0x10 => some .fmtMix
  | 0x11 => some .fmtArch
  | 0x12 => some .envType
  | _ => none

/-- EXC_KIND by its code, compared as a whole word (R26, R57). -/
def ExcKind.ofWord (w : Word) : Option ExcKind :=
  match w.toNat with
  | 0 => some .noise
  | 1 => some .impulses
  | 2 => some .square
  | 3 => some .chirp
  | 4 => some .impulse
  | _ => none

/-- FOLD_MODE by its code (R26). -/
def FoldMode.ofWord (w : Word) : Option FoldMode :=
  match w.toNat with
  | 0 => some .nyquistStop
  | 1 => some .undertones
  | 2 => some .foldback
  | _ => none

/-- The code of a FOLD_MODE value (R26). -/
def FoldMode.code : FoldMode → Word
  | .nyquistStop => 0#32
  | .undertones => 1#32
  | .foldback => 2#32

/-- FMT_ARCH by its code (R26). -/
def FmtArch.ofWord (w : Word) : Option FmtArch :=
  match w.toNat with
  | 0 => some .parallel
  | 1 => some .cascade
  | _ => none

/-- ENV_TYPE by its code (R26). -/
def EnvType.ofWord (w : Word) : Option EnvType :=
  match w.toNat with
  | 0 => some .ahr
  | 1 => some .ar
  | _ => none

/-- The biquad type by its code (R26). -/
def BiquadType.ofByte (t : Byte) : Option BiquadType :=
  match t.toNat with
  | 0 => some .lpf
  | 1 => some .hpf
  | 2 => some .apf
  | 3 => some .bpfCsg
  | 4 => some .bpfCpg
  | 5 => some .notch
  | 6 => some .stkNotch
  | _ => none

/-- The operand values that PARAM_WR accepts (R125): MODE_COUNT and the enumerations are checked as whole words, every
other parameter takes every pattern. -/
def ParamId.accepts (maxModes : Nat) (w : Word) : ParamId → Bool
  | .modeCount => decide (1 ≤ w.toNat) && decide (w.toNat ≤ maxModes)
  | .foldMode => decide (w.toNat ≤ 2)
  | .excKind => decide (w.toNat ≤ 4)
  | .fmtArch => decide (w.toNat ≤ 1)
  | .envType => decide (w.toNat ≤ 1)
  | .inharm => true
  | .exponent => true
  | .falloff => true
  | .decay => true
  | .evenGain => true
  | .foldPoint => true
  | .excRate => true
  | .attack => true
  | .release => true
  | .fmtX => true
  | .fmtY => true
  | .fmtZ => true
  | .fmtLen => true
  | .fmtMix => true

/-- The write of a mode-class parameter (R25, R31, R125): a new pattern is stored and marks the voice DIRTY, the pattern
already held changes nothing. `old` is the pattern held and `store` stores the new one. -/
def Voice.modeWrite (old w : Word) (store : Voice → Voice) (x : Voice) : Voice :=
  if w != old then { store x with dirty := true } else x

/-- `set_exciter(v, k)`, R121: only a switch away from Noise resets the envelope. -/
def Voice.setExciter (k : ExcKind) (x : Voice) : Voice :=
  let env := if x.p.excKind = .noise ∧ k ≠ .noise then x.env.reset else x.env
  { x with p := { x.p with excKind := k }, env := env }

/-- The ENV_TYPE arm of R125: a change resets the envelope (R90). -/
def Voice.setEnvType (t : EnvType) (x : Voice) : Voice :=
  if t ≠ x.p.envType then { x with p := { x.p with envType := t }, env := x.env.reset } else x

/-- One target's write in PARAM_WR (R125). A MODE_COUNT is held as written until the next coefficient update brings it into
`P.MODE_COUNT` (R25, D23; a DESIGN CHOICE, unsafe, log entry 13), and it is compared with the one last written.
A refused enumeration code writes nothing; R125 has turned it away before. -/
def Voice.writeParam (sr : F32) (id : ParamId) (w : Word) (x : Voice) : Voice :=
  match id with
  | .modeCount => x.modeWrite x.modesWritten w fun y => { y with modesWritten := w }
  | .inharm => x.modeWrite x.p.inharm w fun y => { y with p := { y.p with inharm := w } }
  | .exponent => x.modeWrite x.p.exponent w fun y => { y with p := { y.p with exponent := w } }
  | .falloff => x.modeWrite x.p.falloff w fun y => { y with p := { y.p with falloff := w } }
  | .decay => x.modeWrite x.p.decay w fun y => { y with p := { y.p with decay := w } }
  | .evenGain => x.modeWrite x.p.evenGain w fun y => { y with p := { y.p with evenGain := w } }
  | .foldMode =>
    match FoldMode.ofWord w with
    | some m => x.modeWrite x.p.foldMode.code w fun y => { y with p := { y.p with foldMode := m } }
    | none => x
  | .foldPoint => x.modeWrite x.p.foldPoint w fun y => { y with p := { y.p with foldPoint := w } }
  | .excRate => x.modeWrite x.p.excRate w fun y => { y with p := { y.p with excRate := w } }
  | .excKind =>
    match ExcKind.ofWord w with
    | some k => x.setExciter k
    | none => x
  | .attack => x.setAttack sr w
  | .release => x.setRelease sr w
  | .fmtX => Voice.setVowel sr { x with p := { x.p with fmtX := w } }
  | .fmtY => Voice.setVowel sr { x with p := { x.p with fmtY := w } }
  | .fmtZ => Voice.setVowel sr { x with p := { x.p with fmtZ := w } }
  | .fmtLen => Voice.setVowel sr { x with p := { x.p with fmtLen := w } }
  | .fmtMix => { x with p := { x.p with fmtMix := w } }
  | .fmtArch =>
    match FmtArch.ofWord w with
    | some a => { x with p := { x.p with fmtArch := a } }
    | none => x
  | .envType =>
    match EnvType.ofWord w with
    | some t => x.setEnvType t
    | none => x

end Sys2Proof.Machine
end

