-- ==== Sys2Proof/Syntax.lean ====
section
/-! DEFINITION. The commands of R58, whole: one constructor of `Instr` per row of spec/opcode_table.json, the opcode
names of that table, and the reasons for which a command is refused (R157). -/

namespace Sys2Proof

/-- The assigned opcodes of R58, in the table's order. -/
inductive Opcode where
  | nop | reset | setSr | tick | apply | readStatus | clearStatus
  | paramWr
  | voiceOn | voiceOff | update
  | resSet | resPing
  | biqDesign | formantGain
  | keyDown | keyUp | readSlot
deriving DecidableEq, Repr

/-- One command (R54, R58). A field is kept as its raw 8 bits, because the range checks of R60 depend on `NV` and
`MAX_MODES` and run when the command executes; a field that R58 marks `0` is not carried. An operand word is kept whole
(R57). -/
inductive Instr where
  /-- NOP, R148. -/
  | nop
  /-- RESET, R149. -/
  | reset
  /-- SET_SR, R150: operand 0 is the sample rate. -/
  | setSr (sr : F32)
  /-- TICK, R151. -/
  | tick
  /-- APPLY, R152. -/
  | apply
  /-- READ_STATUS, R153. -/
  | readStatus
  /-- CLEAR_STATUS, R154. -/
  | clearStatus
  /-- PARAM_WR, R125: voice or all, parameter id, value word. -/
  | paramWr (v id : Byte) (w : Word)
  /-- VOICE_ON, R126. -/
  | voiceOn (v : Byte) (freq vel : F32)
  /-- VOICE_OFF, R127. -/
  | voiceOff (v : Byte)
  /-- UPDATE, R128: voice or all. -/
  | update (v : Byte)
  /-- RES_SET, R112: voice, mode, then frequency, amplitude and decay. -/
  | resSet (v m : Byte) (freq amp decay : F32)
  /-- RES_PING, R113. -/
  | resPing (v m : Byte)
  /-- BIQ_DESIGN, R104: voice, band, type, then frequency and shape value. -/
  | biqDesign (v b t : Byte) (fc q : F32)
  /-- FORMANT_GAIN, R137: voice or all, band, gain in dB. -/
  | formantGain (v b : Byte) (gainDb : F32)
  /-- KEY_DOWN, R142: note, velocity. -/
  | keyDown (n : Byte) (vel : F32)
  /-- KEY_UP, R143: note. -/
  | keyUp (n : Byte)
  /-- READ_SLOT, R144: slot. -/
  | readSlot (v : Byte)
deriving DecidableEq, Repr

/-- The reasons of R157, in the order of their codes, which is the order of the checks (R158). -/
inductive IllReason where
  /-- 1: OPC is not assigned. -/
  | unknownOpcode
  /-- 2: a field that R58 marks 0 is not 0. -/
  | reservedFieldNonzero
  /-- 3: V is not below NV, nor 0xFF where broadcast is allowed. -/
  | badVoice
  /-- 4: PARAM_WR with I above 0x12. -/
  | badParamId
  /-- 5: I is not below MAX_MODES. -/
  | badModeIndex
  /-- 6: I is not below 4. -/
  | badBand
  /-- 7: A is not below 7. -/
  | badBiquadType
  /-- 8: A is not below 128. -/
  | badNote
  /-- 9: an operand value that SET_SR or PARAM_WR refuses. -/
  | badValue
deriving DecidableEq, Repr

/-- The reason code of R157's table. -/
def IllReason.code : IllReason → Nat
  | .unknownOpcode => 1
  | .reservedFieldNonzero => 2
  | .badVoice => 3
  | .badParamId => 4
  | .badModeIndex => 5
  | .badBand => 6
  | .badBiquadType => 7
  | .badNote => 8
  | .badValue => 9

end Sys2Proof
end

