-- ==== Sys2Proof/WellFormed.lean ====
section
/-! DEFINITION. Which commands R61 calls legal on an engine of `nv` voices with `maxModes` resonators each: the field
ranges of R58 and the operand values that SET_SR (R150) and PARAM_WR (R125) accept, said by bit patterns, apart from the
machine's own checks. -/

namespace Sys2Proof

/-- R58's `v`: a voice index below `NV`. -/
def voiceField (nv : Nat) (v : Byte) : Bool := v.toNat < nv

/-- R58's `v/all`: a voice index below `NV`, or 0xFF. -/
def voiceOrAllField (nv : Nat) (v : Byte) : Bool := v.toNat < nv || v == 0xFF#8

/-- The field ranges of R58: what R60 checks once the opcode is known and the fields it marks `0` are clear. -/
def Instr.wellFormed (nv maxModes : Nat) : Instr → Bool
  | .nop => true
  | .reset => true
  | .setSr _ => true
  | .tick => true
  | .apply => true
  | .readStatus => true
  | .clearStatus => true
  | .paramWr v id _ => voiceOrAllField nv v && decide (id.toNat ≤ 0x12)
  | .voiceOn v _ _ => voiceField nv v
  | .voiceOff v => voiceField nv v
  | .update v => voiceOrAllField nv v
  | .resSet v m _ _ _ => voiceField nv v && decide (m.toNat < maxModes)
  | .resPing v m => voiceField nv v && decide (m.toNat < maxModes)
  | .biqDesign v b t _ _ => voiceField nv v && decide (b.toNat < 4) && decide (t.toNat < 7)
  | .formantGain v b _ => voiceOrAllField nv v && decide (b.toNat < 4)
  | .keyDown n _ => decide (n.toNat < 128)
  | .keyUp n => decide (n.toNat < 128)
  | .readSlot v => voiceField nv v

/-- The operand values of R61's last clause. A sample rate is finite and positive exactly when its pattern lies in
0x00000001 .. 0x7F7FFFFF; MODE_COUNT is 1 to `MAX_MODES`; an enumeration is one of R26's codes. Every other parameter
takes every pattern (R125). -/
def Instr.operandsLegal (maxModes : Nat) : Instr → Bool
  | .setSr sr => decide (0 < sr.toNat ∧ sr.toNat < 0x7F800000)
  | .paramWr _ id w =>
    match id.toNat with
    | 0x00 => decide (1 ≤ w.toNat ∧ w.toNat ≤ maxModes)
    | 0x06 => decide (w.toNat ≤ 2)
    | 0x09 => decide (w.toNat ≤ 4)
    | 0x11 => decide (w.toNat ≤ 1)
    | 0x12 => decide (w.toNat ≤ 1)
    | _ => true
  | _ => true

/-- R61: the command is legal; every other one is refused with ILL. -/
def Instr.legal (nv maxModes : Nat) (i : Instr) : Bool :=
  i.wellFormed nv maxModes && i.operandsLegal maxModes

end Sys2Proof
end

