-- ==== Sys2Proof/Decode.lean ====
section
/-! DEFINITION. From the words of the command port to a command and back (R41, R42, R54 to R63): the fields, the opcode
map, the decoder, which is total on any words and refuses by the reasons of R157, the encoder, the byte order of a byte
transport (R44), and the host's table words. -/

namespace Sys2Proof

/-! ## Fields (R55) -/

/-- OPC, bits 31:24. -/
def opcField (w : Word) : Byte := w.extractLsb' 24 8

/-- V, bits 23:16. -/
def vField (w : Word) : Byte := w.extractLsb' 16 8

/-- I, bits 15:8. -/
def iField (w : Word) : Byte := w.extractLsb' 8 8

/-- A, bits 7:0. -/
def aField (w : Word) : Byte := w.extractLsb' 0 8

/-- The command word `(OPC, V, I, A)`, OPC most significant. -/
def packFields (o v i a : Byte) : Word := o ++ v ++ i ++ a

/-! ## The opcode map (R58) -/

/-- The OPC byte of R58. -/
def Opcode.code : Opcode → Byte
  | .nop => 0x00#8
  | .reset => 0x01#8
  | .setSr => 0x02#8
  | .tick => 0x03#8
  | .apply => 0x04#8
  | .readStatus => 0x05#8
  | .clearStatus => 0x06#8
  | .paramWr => 0x10#8
  | .voiceOn => 0x20#8
  | .voiceOff => 0x21#8
  | .update => 0x22#8
  | .resSet => 0x30#8
  | .resPing => 0x31#8
  | .biqDesign => 0x40#8
  | .formantGain => 0x41#8
  | .keyDown => 0x50#8
  | .keyUp => 0x51#8
  | .readSlot => 0x52#8

/-- The assigned opcodes; every other byte is unassigned (R58). -/
def Opcode.ofByte (b : Byte) : Option Opcode :=
  match b.toNat with
  | 0x00 => some .nop
  | 0x01 => some .reset
  | 0x02 => some .setSr
  | 0x03 => some .tick
  | 0x04 => some .apply
  | 0x05 => some .readStatus
  | 0x06 => some .clearStatus
  | 0x10 => some .paramWr
  | 0x20 => some .voiceOn
  | 0x21 => some .voiceOff
  | 0x22 => some .update
  | 0x30 => some .resSet
  | 0x31 => some .resPing
  | 0x40 => some .biqDesign
  | 0x41 => some .formantGain
  | 0x50 => some .keyDown
  | 0x51 => some .keyUp
  | 0x52 => some .readSlot
  | _ => none

/-- The number of operand words of the opcode's format (R54, R58, R59). -/
def Opcode.operandCount : Opcode → Nat
  | .nop => 0
  | .reset => 0
  | .setSr => 1
  | .tick => 0
  | .apply => 0
  | .readStatus => 0
  | .clearStatus => 0
  | .paramWr => 1
  | .voiceOn => 2
  | .voiceOff => 0
  | .update => 0
  | .resSet => 3
  | .resPing => 0
  | .biqDesign => 2
  | .formantGain => 1
  | .keyDown => 1
  | .keyUp => 0
  | .readSlot => 0

/-- Which of the fields V, I, A the opcode uses, in that order; R58 marks the others `0`. -/
def Opcode.usesFields : Opcode → Bool × Bool × Bool
  | .nop => (false, false, false)
  | .reset => (false, false, false)
  | .setSr => (false, false, false)
  | .tick => (false, false, false)
  | .apply => (false, false, false)
  | .readStatus => (false, false, false)
  | .clearStatus => (false, false, false)
  | .paramWr => (true, true, false)
  | .voiceOn => (true, false, false)
  | .voiceOff => (true, false, false)
  | .update => (true, false, false)
  | .resSet => (true, true, false)
  | .resPing => (true, true, false)
  | .biqDesign => (true, true, true)
  | .formantGain => (true, true, false)
  | .keyDown => (false, false, true)
  | .keyUp => (false, false, true)
  | .readSlot => (true, false, false)

/-- R60's second check: every field that R58 marks `0` is 0. -/
def Opcode.reservedClear (o : Opcode) (w : Word) : Bool :=
  (o.usesFields.1 || vField w == 0#8) &&
    (o.usesFields.2.1 || iField w == 0#8) &&
    (o.usesFields.2.2 || aField w == 0#8)

/-- The operand count that a command word's opcode gives, 0 for an unassigned one (R59). -/
def operandCountOf (w : Word) : Nat :=
  match Opcode.ofByte (opcField w) with
  | some o => o.operandCount
  | none => 0

/-- The command that a word of opcode `o` and its operand words stand for (R57, R58). -/
def Opcode.instr (o : Opcode) (w : Word) (ops : List Word) : Instr :=
  match o with
  | .nop => .nop
  | .reset => .reset
  | .setSr => .setSr (ops.getD 0 0#32)
  | .tick => .tick
  | .apply => .apply
  | .readStatus => .readStatus
  | .clearStatus => .clearStatus
  | .paramWr => .paramWr (vField w) (iField w) (ops.getD 0 0#32)
  | .voiceOn => .voiceOn (vField w) (ops.getD 0 0#32) (ops.getD 1 0#32)
  | .voiceOff => .voiceOff (vField w)
  | .update => .update (vField w)
  | .resSet => .resSet (vField w) (iField w) (ops.getD 0 0#32) (ops.getD 1 0#32) (ops.getD 2 0#32)
  | .resPing => .resPing (vField w) (iField w)
  | .biqDesign => .biqDesign (vField w) (iField w) (aField w) (ops.getD 0 0#32) (ops.getD 1 0#32)
  | .formantGain => .formantGain (vField w) (iField w) (ops.getD 0 0#32)
  | .keyDown => .keyDown (aField w) (ops.getD 0 0#32)
  | .keyUp => .keyUp (aField w)
  | .readSlot => .readSlot (vField w)

/-! ## The decoder (R41, R42, R60, R63) -/

/-- What stands at the front of the command port. -/
inductive Decoded where
  /-- Not all words of the next command have arrived (R42). -/
  | waiting
  /-- A whole command that the first two checks of R60 refuse, its command word, and the words after it. -/
  | illegal (reason : IllReason) (w : Word) (rest : List Word)
  /-- A whole command and the words after it. -/
  | command (i : Instr) (rest : List Word)
deriving DecidableEq, Repr

/-- Take the next whole command. The opcode alone fixes its length (R59, R63), a command with words missing has not
started (R42), and a refused command still consumes its operand words (R60, R159). -/
def decode : List Word → Decoded
  | [] => .waiting
  | w :: ws =>
    match Opcode.ofByte (opcField w) with
    | none => .illegal .unknownOpcode w ws
    | some o =>
      if ws.length < o.operandCount then .waiting
      else if o.reservedClear w then .command (o.instr w (ws.take o.operandCount)) (ws.drop o.operandCount)
      else .illegal .reservedFieldNonzero w (ws.drop o.operandCount)

/-! ## The encoder (R54 to R58) -/

/-- The opcode of a command. -/
def Instr.opcode : Instr → Opcode
  | .nop => .nop
  | .reset => .reset
  | .setSr _ => .setSr
  | .tick => .tick
  | .apply => .apply
  | .readStatus => .readStatus
  | .clearStatus => .clearStatus
  | .paramWr _ _ _ => .paramWr
  | .voiceOn _ _ _ => .voiceOn
  | .voiceOff _ => .voiceOff
  | .update _ => .update
  | .resSet _ _ _ _ _ => .resSet
  | .resPing _ _ => .resPing
  | .biqDesign _ _ _ _ _ => .biqDesign
  | .formantGain _ _ _ => .formantGain
  | .keyDown _ _ => .keyDown
  | .keyUp _ => .keyUp
  | .readSlot _ => .readSlot

/-- The fields V, I, A of a command, 0 where unused (R55, R58). -/
def Instr.fields : Instr → Byte × Byte × Byte
  | .nop => (0#8, 0#8, 0#8)
  | .reset => (0#8, 0#8, 0#8)
  | .setSr _ => (0#8, 0#8, 0#8)
  | .tick => (0#8, 0#8, 0#8)
  | .apply => (0#8, 0#8, 0#8)
  | .readStatus => (0#8, 0#8, 0#8)
  | .clearStatus => (0#8, 0#8, 0#8)
  | .paramWr v id _ => (v, id, 0#8)
  | .voiceOn v _ _ => (v, 0#8, 0#8)
  | .voiceOff v => (v, 0#8, 0#8)
  | .update v => (v, 0#8, 0#8)
  | .resSet v m _ _ _ => (v, m, 0#8)
  | .resPing v m => (v, m, 0#8)
  | .biqDesign v b t _ _ => (v, b, t)
  | .formantGain v b _ => (v, b, 0#8)
  | .keyDown n _ => (0#8, 0#8, n)
  | .keyUp n => (0#8, 0#8, n)
  | .readSlot v => (v, 0#8, 0#8)

/-- The operand words of a command, operand 0 first (R54, R58). -/
def Instr.operands : Instr → List Word
  | .nop => []
  | .reset => []
  | .setSr sr => [sr]
  | .tick => []
  | .apply => []
  | .readStatus => []
  | .clearStatus => []
  | .paramWr _ _ w => [w]
  | .voiceOn _ freq vel => [freq, vel]
  | .voiceOff _ => []
  | .update _ => []
  | .resSet _ _ freq amp decay => [freq, amp, decay]
  | .resPing _ _ => []
  | .biqDesign _ _ _ fc q => [fc, q]
  | .formantGain _ _ g => [g]
  | .keyDown _ vel => [vel]
  | .keyUp _ => []
  | .readSlot _ => []

/-- The command word of a command (R55). -/
def Instr.commandWord (i : Instr) : Word :=
  packFields i.opcode.code i.fields.1 i.fields.2.1 i.fields.2.2

/-- The words of a command in stream order (R54). -/
def encode (i : Instr) : List Word := i.commandWord :: i.operands

/-! ## Bytes (R44, R45) -/

/-- A word from its four bytes, least significant first (R44). -/
def wordOfBytes (b0 b1 b2 b3 : Byte) : Word := b3 ++ b2 ++ b1 ++ b0

/-- The words a byte transport delivers, in groups of 4; a partial group has not arrived (R45). -/
def wordsOfBytes : List Byte → List Word
  | b0 :: b1 :: b2 :: b3 :: rest => wordOfBytes b0 b1 b2 b3 :: wordsOfBytes rest
  | _ => []

/-- The four bytes of a word as a byte transport moves it, least significant first (R44). -/
def bytesOfWord (w : Word) : List Byte :=
  [w.extractLsb' 0 8, w.extractLsb' 8 8, w.extractLsb' 16 8, w.extractLsb' 24 8]

/-- The bytes that a byte transport moves for the words of a port, in the order of the words (R44, R45). -/
def bytesOfWords (ws : List Word) : List Byte := ws.flatMap bytesOfWord

/-! ## The host's table words -/

/-- The 16 bytes, of four words, of an instruction whose bits are `w` with `nbits` of them given, bit 0 the least
significant of the first word and every bit from `nbits` on 0. -/
def tableBytes (nbits w : Nat) : List Byte :=
  (List.range 16).map fun k => BitVec.ofNat 8 ((w % 2 ^ nbits) >>> (8 * k))

/-- The same instruction as the words of exactly one command: the command word and the operand words its opcode asks
for (R63). -/
def tableWords (nbits w : Nat) : List Word :=
  match wordsOfBytes (tableBytes nbits w) with
  | [] => []
  | c :: ops => c :: ops.take (operandCountOf c)

/-- The instruction the decoder reads from an instruction whose bits are `w`, none where it refuses. -/
def decodeTableWord (nbits w : Nat) : Option Instr :=
  match decode (tableWords nbits w) with
  | .command i _ => some i
  | .waiting => none
  | .illegal _ _ _ => none

end Sys2Proof
end

