-- ==== Sys2Proof/Machine/Phasor.lean ====
section
/-! DEFINITION. The phasor accumulator, the waveform functions and the chirp generator of 41_phasor.md (R66 to R81).
`sr` is `G.SR`. -/

namespace Sys2Proof.Machine

/-! ## The phasor (R66 to R69) -/

/-- `ph_set_freq(P, f)`, R66. -/
def Phasor.setFreq (sr f : F32) (ph : Phasor) : Phasor :=
  { ph with freq := f, inc := fdiv f sr }

/-- `ph_set_sample_rate(P)`, R67. -/
def Phasor.setSampleRate (sr : F32) (ph : Phasor) : Phasor :=
  { ph with inc := fdiv ph.freq sr }

/-- The phase after `ph_tick(P)` by R68: one subtraction only, at and above 1. -/
def Phasor.nextPhase (ph : Phasor) : F32 :=
  let x := fadd ph.phase ph.inc
  if fge x C.one then fsub x C.one else x

/-- The frequency and the increment that R66 derives from it are infinite. -/
def Phasor.isInfinite (ph : Phasor) : Bool := isInf ph.freq && isInf ph.inc

/-- `ph_tick(P)`, R68. At an infinite frequency the table of R165 makes the phase NaN, where R68 and R69(b) and (c) compute
an infinity: which of the two is left open (DESIGN CHOICE, safe, log entry 14). -/
def Phasor.tick (ph : Phasor) : Phasor :=
  { ph with phase := if ph.isInfinite && Config.infiniteFreqMakesNaN then qnan else ph.nextPhase }

/-! ## Waveforms (R70 to R78) -/

/-- `wf_saw(ph)`, R70. -/
def wfSaw (ph : F32) : F32 := fsub (fmul C.two ph) C.one

/-- `wf_sine(ph)`, R71. -/
def wfSine (ph : F32) : F32 := sin32 (fmul C.twoPi ph)

/-- `wf_tri(ph)`, R72. -/
def wfTri (ph : F32) : F32 := fsub (fmul C.four (fabs (fsub ph C.half))) C.one

/-- `wf_rect(ph, w)`, R73. -/
def wfRect (ph w : F32) : F32 := if fge ph (fsub C.one w) then C.one else C.negOne

/-- `blep(t, dt)`, R74. -/
def blep (t dt : F32) : F32 :=
  if flt t dt then
    let x := fdiv t dt
    fsub (fsub (fadd x x) (fmul x x)) C.one
  else if fgt t (fsub C.one dt) then
    let x := fdiv (fsub t C.one) dt
    fadd (fadd (fadd (fmul x x) x) x) C.one
  else C.zero

/-- `wf_aa_saw(ph, dt)`, R75. -/
def wfAaSaw (ph dt : F32) : F32 := fsub (fsub (fmul C.two ph) C.one) (blep ph dt)

/-- `wf_aa_rect(ph, dt, w)`, R76. -/
def wfAaRect (ph dt w : F32) : F32 :=
  fsub (wfAaSaw ph dt) (wfAaSaw (frac (fadd ph w)) dt)

/-- `wf_impulse_train(ph, dt)`, R77. -/
def wfImpulseTrain (ph dt : F32) : F32 := Config.impTrain ph dt

/-! ## The chirp generator (R79 to R81), on the pair (CTL, GEN) of a voice -/

/-- `ch_tick(C)`, R79: the new CTL, the new GEN and the output. -/
def chirpTick (sr : F32) (ctl gen : Phasor) : Phasor × Phasor × F32 :=
  let ctl' := ctl.tick
  let gen' := (gen.setFreq sr (fadd C.twenty (fmul C.n19980 ctl'.phase))).tick
  (ctl', gen', wfSine gen'.phase)

/-- `ch_set_freq(C, f)`, R80: only CTL is set. -/
def Voice.chirpSetFreq (sr f : F32) (x : Voice) : Voice :=
  { x with chCtl := x.chCtl.setFreq sr f }

/-- `ch_set_sample_rate(C)`, R81. -/
def Voice.chirpSetSampleRate (sr : F32) (x : Voice) : Voice :=
  { x with chCtl := x.chCtl.setSampleRate sr, chGen := x.chGen.setSampleRate sr }

end Sys2Proof.Machine
end

