-- ==== Sys2Proof/Machine/Flags.lean ====
section
/-! DEFINITION. The flags of R22 that are computed: the resonator `play` bit (R106), the DIRTY bits as STATUS shows them
and the STATUS word (R23, R153). The envelope states are in Envelope.lean, STATUS.ILL in Ops.lean. -/

namespace Sys2Proof.Machine

/-- `play` of R106: the frequency lies inside (0, G.SR / 2); a NaN frequency gives 0. -/
def resPlay (sr freq : F32) : Bool := flt C.zero freq && flt freq (fmul sr C.half)

/-- The DIRTY bits of the voices from bit `k` upward, ascending (R23, R153). -/
def dirtyField (k : Nat) : List Voice → Word
  | [] => 0#32
  | v :: vs => (if v.dirty then 1#32 <<< k else 0#32) ||| dirtyField (k + 1) vs

/-- The STATUS word of R23 and R153: ILL in bit 0, DIRTY[v] in bit 16+v, every other bit 0. -/
def statusWord (ill : Bool) (vs : List Voice) : Word :=
  (if ill then 1#32 else 0#32) ||| dirtyField 16 vs

end Sys2Proof.Machine
end

