-- ==== Sys2Proof/Machine/Resonator.lean ====
section
/-! DEFINITION. The modal resonator and the resonator bank of 44_resonator.md (R106 to R111). `sr` is `G.SR`. -/

namespace Sys2Proof.Machine

/-- `d` of R106, the decay factor of one sample. -/
def resDecayFactor (sr decay : F32) : F32 := pow32 C.c0p001 (fdiv C.one (fmul decay sr))

/-- `th` of R106, the rotation of one sample. -/
def resAngle (sr freq : F32) : F32 := fdiv (fmul C.twoPi freq) sr

/-- `res_compute(R)`, R106: the coefficient is computed even when the mode is muted. -/
def Resonator.compute (sr : F32) (r : Resonator) : Resonator :=
  { r with
    play := resPlay sr r.freq
    cr := fmul (resDecayFactor sr r.decay) (cos32 (resAngle sr r.freq))
    ci := fmul (resDecayFactor sr r.decay) (sin32 (resAngle sr r.freq)) }

/-- `res_set_params(R, f, a, d)`, R107: the delay state is kept. -/
def Resonator.setParams (sr f a d : F32) (r : Resonator) : Resonator :=
  Resonator.compute sr { r with freq := f, amp := a, decay := d }

/-- `res_set_sample_rate(R)`, R108. -/
def Resonator.setSampleRate (sr : F32) (r : Resonator) : Resonator := r.compute sr

/-- `res_tick(R, x)`, R109: the output sample and the resonator after the tick. A muted one is frozen. -/
def Resonator.tick (x : F32) (r : Resonator) : F32 × Resonator :=
  if r.play then
    let ar := fmul r.amp x
    let nr := fadd ar (fsub (fmul r.cr r.yr) (fmul r.ci r.yi))
    let ni := fadd (fmul r.cr r.yi) (fmul r.ci r.yr)
    (ni, { r with yr := nr, yi := ni })
  else (C.zero, r)

/-- `res_ping(R)`, R110: sets the state, and does not add to it. -/
def Resonator.ping (r : Resonator) : Resonator := { r with yr := r.amp, yi := C.zero }

/-- The lanes of `bank_tick` from here on, `n` of them active, with the sum so far (R111): the sum in ascending order and
the resonators after the tick. Lanes past the active ones are neither ticked nor summed. A TICK passes `P.MODE_COUNT`
as `n` (`Voice.tick`). -/
def bankTick (x : F32) : Nat → F32 → List Resonator → F32 × List Resonator
  | 0, acc, rs => (acc, rs)
  | _ + 1, acc, [] => (acc, [])
  | n + 1, acc, r :: rs =>
    let t := r.tick x
    let rest := bankTick x n (fadd acc t.1) rs
    (rest.1, t.2 :: rest.2)

/-- Apply `f` to the resonators `0 .. n-1`, by index (R35: the others keep their values). -/
def mapActive (n : Nat) (f : Nat → Resonator → Resonator) (rs : List Resonator) : List Resonator :=
  rs.mapIdx fun m r => if m < n then f m r else r

end Sys2Proof.Machine
end

