-- ==== Sys2Proof/Machine/Voice.lean ====
section
/-! DEFINITION. The modal voice of 45_voice.md: the coefficient update (R116 to R118), note on and off (R119, R120), the
sample (R122, R123), the sample-rate change of one voice (R150) and its reset value (R176). `sr` is `G.SR`. -/

namespace Sys2Proof.Machine

/-! ## Coefficient update (R116 to R118) -/

/-- The overtone multiplier `ov` of R117 for the 0-based mode `i`. -/
def Voice.overtone (x : Voice) (i : Nat) : F32 :=
  fmul (f32OfNat (i + 1)) (fadd C.one (fmul (f32OfNat i) x.p.inharm))

/-- `mode_freq(v, i)`, R117: one reflection only, and only under Foldback. -/
def Voice.modeFreq (x : Voice) (i : Nat) : F32 :=
  let pw := pow32 (x.overtone i) x.p.exponent
  match x.p.foldMode with
  | .undertones => fdiv x.noteFreq pw
  | .nyquistStop => fmul x.noteFreq pw
  | .foldback =>
    let f := fmul x.noteFreq pw
    if fgt f x.p.foldPoint then fsub (fmul C.two x.p.foldPoint) f else f

/-- `mode_dist(v, i)`, R118. -/
def Voice.modeDist (x : Voice) (i : Nat) : F32 :=
  fmul (fdiv C.two (pow32 (f32OfNat (i + 1)) x.p.falloff)) (if i % 2 = 1 then x.p.evenGain else C.one)

/-- `ef` of R116, the exciter frequency. -/
def Voice.exciterFreq (x : Voice) : F32 := fdiv x.noteFreq x.p.excRate

/-- `voice_update(v)`, R116. The MODE_COUNT last written first comes into `P.MODE_COUNT`, which the rule's loop
reads (R25, R187; log entry 13). -/
def Voice.update (sr : F32) (x : Voice) : Voice :=
  { x with
    p := { x.p with modeCount := x.modesWritten }
    res := mapActive x.modesWritten.toNat
      (fun i r => r.setParams sr (x.modeFreq i) (x.modeDist i) (fmul (x.modeDist i) x.p.decay)) x.res
    exc := x.exc.setFreq sr x.exciterFreq
    chCtl := x.chCtl.setFreq sr x.exciterFreq
    dirty := false }

/-! ## Note on and off (R119, R120) -/

/-- `res_ping` of every active resonator, the Impulse arm of R119. -/
def Voice.pingActive (x : Voice) : Voice :=
  { x with res := mapActive x.p.modeCount.toNat (fun _ r => r.ping) x.res }

/-- `env_trigger(v)` of R90. -/
def Voice.envTrigger (x : Voice) : Voice := { x with env := x.env.trigger x.p.envType }

/-- `env_release(v)` of R90. -/
def Voice.envRelease (x : Voice) : Voice := { x with env := x.env.releaseNote x.p.envType }

/-- `voice_on(v, f, vel)`, R119. -/
def Voice.noteOn (sr f vel : F32) (x : Voice) : Voice :=
  let y := Voice.update sr { x with noteFreq := f, velocity := vel }
  match x.p.excKind with
  | .impulse => y.pingActive
  | .noise => y.envTrigger
  | .impulses => y.envTrigger
  | .square => y.envTrigger
  | .chirp => y.envTrigger

/-- `voice_off(v)`, R120. -/
def Voice.noteOff (x : Voice) : Voice :=
  match x.p.excKind with
  | .impulse => x
  | .noise => x.envRelease
  | .impulses => x.envRelease
  | .square => x.envRelease
  | .chirp => x.envRelease

/-! ## The sample (R122, R123) -/

/-- `exc_signal(v, n, c)`, R122: `exc` is the exciter phasor after this sample's tick. -/
def excSignal (kind : ExcKind) (exc : Phasor) (n c : F32) : F32 :=
  match kind with
  | .noise => n
  | .impulses => fmul Config.kImpulses (wfImpulseTrain exc.phase exc.inc)
  | .square => fmul Config.kSquare (wfAaRect exc.phase exc.inc C.half)
  | .chirp => fmul Config.kChirp c
  | .impulse => C.zero

/-- `voice_tick(v, n)`, R123: the voice's output sample and the voice after it. The active lanes are those below
`P.MODE_COUNT` (R111, R35). A MODE_COUNT written since the last `voice_update` is not in it yet and has no effect on sound
(R25, R125, R187, D23); that it waits is a DESIGN CHOICE (unsafe, log entry 13). -/
def Voice.tick (sr n : F32) (x : Voice) : F32 × Voice :=
  let exc := x.exc.tick
  let ch := chirpTick sr x.chCtl x.chGen
  let s := excSignal x.p.excKind exc n ch.2.2
  let e := x.env.output x.p.envType
  let bank := bankTick (fmul s e) x.p.modeCount.toNat C.zero x.res
  let fo := x.fmt.tick x.p.fmtArch bank.1
  let out := fadd (fmul (fsub C.one x.p.fmtMix) bank.1) (fmul x.p.fmtMix fo.1)
  (fmul out (fmul x.velocity x.velocity),
   { x with
     exc := exc
     chCtl := ch.1
     chGen := ch.2.1
     env := x.env.tick x.p.envType
     res := bank.2
     fmt := fo.2 })

/-! ## Sample rate and reset -/

/-- What SET_SR does to one voice, R150: every rate-dependent value is derived again, every resonator included. -/
def Voice.setSampleRate (sr : F32) (x : Voice) : Voice :=
  let y := Voice.envSetSampleRate sr (Voice.chirpSetSampleRate sr { x with exc := x.exc.setSampleRate sr })
  { y with fmt := y.fmt.setSampleRate sr, res := y.res.map (Resonator.setSampleRate sr) }

/-- The reset column of R25. -/
def Params.atReset : Params :=
  { modeCount := 1#32
    inharm := C.zero
    exponent := C.one
    falloff := C.one
    decay := C.one
    evenGain := C.one
    foldMode := .nyquistStop
    foldPoint := C.n20000
    excRate := C.one
    excKind := .impulse
    attack := C.c0p01
    release := C.half
    fmtX := C.zero
    fmtY := C.zero
    fmtZ := C.zero
    fmtLen := C.zero
    fmtMix := C.zero
    fmtArch := .parallel
    envType := .ahr }

/-- A resonator after reset (R28). -/
def Resonator.atReset : Resonator :=
  { freq := C.zero, amp := C.zero, decay := C.zero, cr := C.zero, ci := C.zero, yr := C.zero, yi := C.zero,
    play := false }

/-- A phasor after reset (R29, R30). -/
def Phasor.atReset : Phasor := { phase := C.zero, freq := C.zero, inc := C.zero }

/-- A formant band after reset: 0 dB, the design of R132 at centre frequency `fc` and rate `sr`, zero history (R33, R34). -/
def Band.atReset (sr fc : F32) : Band :=
  { filter :=
      { bt := .bpfCpg, fc := fc, q := C.c0p1, co := (bqRaw sr .bpfCpg fc C.c0p1).normalized,
        x1 := C.zero, x2 := C.zero, y1 := C.zero, y2 := C.zero }
    gainDb := C.zero
    gainLin := C.one }

/-- One voice after `reset_all()`, R176, at the sample rate `sr` that it set before. -/
def Voice.atReset (sr : F32) (maxModes : Nat) : Voice :=
  { p := Params.atReset
    noteFreq := C.zero
    velocity := C.zero
    res := List.replicate maxModes Resonator.atReset
    exc := Phasor.atReset
    chCtl := Phasor.atReset
    chGen := Phasor.atReset
    dirty := false
    modesWritten := Params.atReset.modeCount
    env :=
      { state := .rest
        value := C.zero
        ainc := envIncrement sr Params.atReset.attack
        rinc := envIncrement sr Params.atReset.release }
    fmt :=
      { b0 := Band.atReset sr (formantF1 Params.atReset)
        b1 := Band.atReset sr (formantF2 Params.atReset)
        b2 := Band.atReset sr (formantF3 Params.atReset)
        b3 := Band.atReset sr (formantF4 Params.atReset) } }

end Sys2Proof.Machine
end

