-- ==== Sys2Proof/Machine/State.lean ====
section
/-! DEFINITION. The state of the machine as plain data: `G` and `CTRL` of R18 to R24, the voices, the two ports of R41
and R43, the model's draw counter (R36, log entry 3) and its record of the last refusal (R157, log entry 6); the reset
state of R176 to R178; and why a step may stop, which on this hardware nothing does (R166). -/

namespace Sys2Proof.Machine

/-- What `raise ILL(info)` records for the model only (R15, R157): the reason, the command word and, for BAD_VALUE, the
operand word. -/
structure IllInfo where
  reason : IllReason
  word : Word
  operand : Option Word
deriving DecidableEq, Repr

/-- The whole machine. `voices` and `slots` have `NV` entries and each voice `MAX_MODES` resonators; no command changes
a length. -/
structure State where
  /-- `G.SR` (R20). -/
  sr : F32
  /-- `G.STATUS.ILL` (R23). -/
  ill : Bool
  /-- `CTRL.slot[s]` in slot order (R24). -/
  slots : List (Option (BitVec 7))
  /-- `CTRL.last` (R24). -/
  last : Nat
  /-- `V[v]` in voice order (R18). -/
  voices : List Voice
  /-- The words that have arrived at the command port, oldest first (R41, R42). -/
  cmd : List Word
  /-- The words emitted on the output port, oldest first (R43). -/
  out : List Word
  /-- The model's own: how many noise draws have been taken (R124, log entry 3). -/
  draws : Nat
  /-- The model's own: the last refusal (R157, log entry 6). -/
  illInfo : Option IllInfo
deriving DecidableEq, Repr

/-- Why the machine stops: never. No constructor, because nothing in this hardware is fatal (R166). -/
inductive Fault where
deriving DecidableEq, Repr

/-- Why a command has no meaning. -/
inductive Refusal where
  /-- An arm of `exec` that is not modelled yet; safe, since the run stops there. No arm raises it. -/
  | notModelled (mnemonic : String)
deriving DecidableEq, Repr

/-- `NV`, the number of voices of this engine (R6). -/
def State.nv (s : State) : Nat := s.voices.length

/-- The number of resonators of the voices in a list, read off the first. -/
def maxModesOf : List Voice → Nat
  | [] => 0
  | x :: _ => x.res.length

/-- `MAX_MODES`, the resonators of each voice of this engine (R7). -/
def State.maxModes (s : State) : Nat := maxModesOf s.voices

/-- The power-on state of an engine of `nv` voices with `maxModes` resonators each (R176 to R178): both ports empty. -/
def State.resetWith (nv maxModes : Nat) : State :=
  { sr := C.n48000
    ill := false
    slots := List.replicate nv none
    last := nv - 1
    voices := List.replicate nv (Voice.atReset C.n48000 maxModes)
    cmd := []
    out := []
    draws := 0
    illInfo := none }

/-- The machine right after power-on (R176 to R178), for the configuration's `NV` and `MAX_MODES`. -/
def State.reset : State := State.resetWith Config.NV Config.MAX_MODES

end Sys2Proof.Machine
end

