-- ==== Sys2Proof/Machine/Operands.lean ====
section
/-! DEFINITION. The operand forms of R55 to R58 as the machine checks them when a command executes: each check answers
the reason for which it refuses, and a meaning takes the first one that does, in the order of R60 and R158. -/

namespace Sys2Proof.Machine

/-- R58's `v`: a voice index below `NV`. -/
def badVoice (s : State) (v : Byte) : Option IllReason :=
  if v.toNat < s.nv then none else some .badVoice

/-- R58's `v/all`: a voice index below `NV`, or 0xFF for every voice. -/
def badTarget (s : State) (v : Byte) : Option IllReason :=
  if v.toNat < s.nv ∨ v = 0xFF#8 then none else some .badVoice

/-- A parameter id is at most 0x12. -/
def badParamId (id : Byte) : Option IllReason :=
  if id.toNat ≤ 0x12 then none else some .badParamId

/-- A mode index is below `MAX_MODES`. -/
def badMode (s : State) (m : Byte) : Option IllReason :=
  if m.toNat < s.maxModes then none else some .badModeIndex

/-- A band index is below 4. -/
def badBand (b : Byte) : Option IllReason :=
  if b.toNat < 4 then none else some .badBand

/-- A biquad type is below 7. -/
def badBiquadType (t : Byte) : Option IllReason :=
  if t.toNat < 7 then none else some .badBiquadType

/-- A note number is below 128. -/
def badNote (n : Byte) : Option IllReason :=
  if n.toNat < 128 then none else some .badNote

/-- SET_SR refuses a rate that is not finite and positive; NaN fails both comparisons (R150). -/
def badRate (sr : F32) : Option IllReason :=
  if fgt sr C.zero && flt sr posInf then none else some .badValue

/-- PARAM_WR refuses a MODE_COUNT or an enumeration code out of range (R125). -/
def badParamValue (s : State) (id : Byte) (w : Word) : Option IllReason :=
  match ParamId.ofByte id with
  | some p => if p.accepts s.maxModes w then none else some .badValue
  | none => none

end Sys2Proof.Machine
end

