-- ==== Sys2Proof/Machine/Ops.lean ====
section
/-! DEFINITION. The named operations the meanings are written with: the host's side of the ports, `emit` (R43), raising
ILL (R15, R156, R159), reaching voices, the whole reset (R176) and the sample of every voice (R151). The hardware has no
memory, so there is no memory operation (R39). -/

namespace Sys2Proof.Machine

/-! ## Ports -/

/-- Words arrive at the command port (R41). -/
def State.receive (ws : List Word) (s : State) : State := { s with cmd := s.cmd ++ ws }

/-- Bytes arrive over a byte transport (R44, R45). -/
def State.receiveBytes (bs : List Byte) (s : State) : State := s.receive (wordsOfBytes bs)

/-- `emit(w)`, R43. -/
def State.emit (w : Word) (s : State) : State := { s with out := s.out ++ [w] }

/-- The bytes that the host takes from the output port over a byte transport (R43, R44). -/
def State.outBytes (s : State) : List Byte := bytesOfWords s.out

/-! ## ILL: the one exception of this hardware, and its completion (R156, R159) -/

/-- `raise ILL(info)`: STATUS.ILL is set and `info` recorded for the model; nothing else (R15, R156). No state is saved
and no control transferred, so there is no return from it (R167, R168). -/
def State.raiseIll (info : IllInfo) (s : State) : State := { s with ill := true, illInfo := some info }

/-- What a refusal of `i` for reason `r` records (R157): the command word, and for BAD_VALUE the operand word. -/
def illInfoOf (i : Instr) (r : IllReason) : IllInfo :=
  { reason := r, word := i.commandWord, operand := if r = .badValue then i.operands.head? else none }

/-- A command runs: it raises ILL for the first check that refuses it, and has its effect where none does (R60, R158,
R159). -/
def runCommand (i : Instr) (refuses : Option IllReason) (s effect : State) : Host.Outcome State Fault Refusal :=
  .next (match refuses with
    | some r => s.raiseIll (illInfoOf i r)
    | none => effect)

/-! ## Voices -/

/-- Apply `f` to voice `v`. -/
def State.onVoice (v : Nat) (f : Voice → Voice) (s : State) : State :=
  { s with voices := s.voices.modify v f }

/-- Apply `f` to every voice, in ascending order (R125). -/
def State.onAll (f : Voice → Voice) (s : State) : State := { s with voices := s.voices.map f }

/-- Apply `f` to the targets of a `v/all` field: every voice for 0xFF, else voice `v` (R58, R125). -/
def State.onTargets (v : Byte) (f : Voice → Voice) (s : State) : State :=
  if v = 0xFF#8 then s.onAll f else s.onVoice v.toNat f

/-- Apply `f` to resonator `m` of a voice. -/
def Voice.onRes (m : Nat) (f : Resonator → Resonator) (x : Voice) : Voice :=
  { x with res := x.res.modify m f }

/-- Apply `f` to formant band `b` of a voice. -/
def Voice.onBand (b : Nat) (f : Band → Band) (x : Voice) : Voice :=
  { x with fmt := x.fmt.onBand b f }

/-! ## The driver (R149, R151, R152) -/

/-- `reset_all()`, R176: every element of R18 in its reset value. The ports keep their words (R176), and the draws go on
(log entry 3). -/
def State.resetAll (s : State) : State :=
  { State.resetWith s.nv s.maxModes with cmd := s.cmd, out := s.out, draws := s.draws }

/-- The voices from here on tick in ascending order; `k` is the number of the next noise draw and `acc` the sum so far
(R124, R151). -/
def tickVoices (sr : F32) : Nat → F32 → List Voice → F32 × List Voice
  | _, acc, [] => (acc, [])
  | k, acc, x :: xs =>
    let t := x.tick sr (noiseDraw k)
    let rest := tickVoices sr (k + 1) (fadd acc t.1) xs
    (rest.1, t.2 :: rest.2)

/-- The sample of R151 before it is emitted: the trimmed sum, and the state with every voice ticked and one draw taken
for each. -/
def State.sample (s : State) : F32 × State :=
  let t := tickVoices s.sr s.draws C.zero s.voices
  (fmul t.1 C.c0p1, { s with voices := t.2, draws := s.draws + s.nv })

end Sys2Proof.Machine
end

