-- ==== Sys2Proof/Machine/Controller.lean ====
section
/-! DEFINITION. The polyphonic voice controller of 47_controller.md: the pitch of a note (R139), the key events (R140,
R141) and the commands KEY_DOWN, KEY_UP and READ_SLOT (R142 to R144). -/

namespace Sys2Proof.Machine

/-- `midi_to_freq(n)`, R139. -/
def midiToFreq (n : Nat) : F32 :=
  fmul C.n440 (pow32 C.two (fdiv (fsub (f32OfNat n) C.n69) C.twelve))

/-- The slots in the order that R140 scans them: just after `last` first, `last` itself at the end. -/
def scanOrder (nv last : Nat) : List Nat := (List.range nv).map fun j => (last + (j + 1)) % nv

/-- The first free slot of the scan, if there is one (R140). -/
def freeSlot (slots : List (Option (BitVec 7))) (nv last : Nat) : Option Nat :=
  (scanOrder nv last).find? fun k => slots[k]? == some none

/-- `key_down(n, vel)`, R140: without a free slot the note is dropped and nothing changes. -/
def State.keyDown (n : BitVec 7) (vel : F32) (s : State) : State :=
  match freeSlot s.slots s.nv s.last with
  | some k =>
    State.onVoice k (Voice.noteOn s.sr (midiToFreq n.toNat) vel)
      { s with slots := s.slots.set k (some n), last := k }
  | none => s

/-- `key_up(n)`, R141: the lowest slot that holds the note; without one there is no effect. -/
def State.keyUp (n : BitVec 7) (s : State) : State :=
  match s.slots.findIdx? (· == some n) with
  | some k => State.onVoice k Voice.noteOff { s with slots := s.slots.set k none }
  | none => s

/-- The word of R144: bit 31 occupied, bits 6:0 the note. -/
def slotWord (slot : Option (BitVec 7)) : Word :=
  match slot with
  | none => 0#32
  | some n => 0x80000000#32 ||| n.setWidth 32

/-- KEY_DOWN, R142. -/
def execKeyDown (n : Byte) (vel : F32) (s : State) : Host.Outcome State Fault Refusal :=
  runCommand (.keyDown n vel) (badNote n) s (s.keyDown (n.setWidth 7) vel)

/-- KEY_UP, R143. -/
def execKeyUp (n : Byte) (s : State) : Host.Outcome State Fault Refusal :=
  runCommand (.keyUp n) (badNote n) s (s.keyUp (n.setWidth 7))

/-- READ_SLOT, R144. -/
def execReadSlot (v : Byte) (s : State) : Host.Outcome State Fault Refusal :=
  runCommand (.readSlot v) (badVoice s v) s (s.emit (slotWord (s.slots.getD v.toNat none)))

end Sys2Proof.Machine
end

