-- ==== Sys2Proof/Machine/FilterCommands.lean ====
section
/-! DEFINITION. The filter commands: BIQ_DESIGN of 43_biquad.md and FORMANT_GAIN of 46_formant.md. -/

namespace Sys2Proof.Machine

/-- BIQ_DESIGN, R104: the history of the band is kept. -/
def execBiqDesign (v b t : Byte) (fc q : F32) (s : State) : Host.Outcome State Fault Refusal :=
  runCommand (.biqDesign v b t fc q) (badVoice s v <|> badBand b <|> badBiquadType t) s
    (match BiquadType.ofByte t with
      | some bt => s.onVoice v.toNat (Voice.onBand b.toNat (Band.design s.sr bt fc q))
      | none => s)

/-- FORMANT_GAIN, R137: DIRTY is not changed. -/
def execFormantGain (v b : Byte) (gainDb : F32) (s : State) : Host.Outcome State Fault Refusal :=
  runCommand (.formantGain v b gainDb) (badTarget s v <|> badBand b) s
    (s.onTargets v (Voice.onBand b.toNat (Band.setGain gainDb)))

end Sys2Proof.Machine
end

