-- ==== Sys2Proof/Machine/ResonatorCommands.lean ====
section
/-! DEFINITION. The resonator commands of 44_resonator.md: RES_SET and RES_PING. -/

namespace Sys2Proof.Machine

/-- RES_SET, R112: DIRTY is not changed. -/
def execResSet (v m : Byte) (freq amp decay : F32) (s : State) : Host.Outcome State Fault Refusal :=
  runCommand (.resSet v m freq amp decay) (badVoice s v <|> badMode s m) s
    (s.onVoice v.toNat (Voice.onRes m.toNat (Resonator.setParams s.sr freq amp decay)))

/-- RES_PING, R113: active or not, muted or not. -/
def execResPing (v m : Byte) (s : State) : Host.Outcome State Fault Refusal :=
  runCommand (.resPing v m) (badVoice s v <|> badMode s m) s
    (s.onVoice v.toNat (Voice.onRes m.toNat Resonator.ping))

end Sys2Proof.Machine
end

