-- ==== Sys2Proof/Machine/System.lean ====
section
/-! DEFINITION. The system commands of 48_driver.md: NOP, RESET, SET_SR, TICK, APPLY, READ_STATUS and CLEAR_STATUS. Their
fields V, I and A are all marked 0, so the decoder has made every field check of R60 before them. -/

namespace Sys2Proof.Machine

/-- NOP, R148. -/
def execNop (s : State) : Host.Outcome State Fault Refusal :=
  runCommand .nop none s s

/-- RESET, R149. -/
def execReset (s : State) : Host.Outcome State Fault Refusal :=
  runCommand .reset none s s.resetAll

/-- SET_SR, R150. -/
def execSetSr (sr : F32) (s : State) : Host.Outcome State Fault Refusal :=
  runCommand (.setSr sr) (badRate sr) s (State.onAll (Voice.setSampleRate sr) { s with sr := sr })

/-- TICK, R151. -/
def execTick (s : State) : Host.Outcome State Fault Refusal :=
  runCommand .tick none s (s.sample.2.emit s.sample.1)

/-- APPLY, R152. -/
def execApply (s : State) : Host.Outcome State Fault Refusal :=
  runCommand .apply none s (s.onAll fun x => if x.dirty then x.update s.sr else x)

/-- READ_STATUS, R153. -/
def execReadStatus (s : State) : Host.Outcome State Fault Refusal :=
  runCommand .readStatus none s (s.emit (statusWord s.ill s.voices))

/-- CLEAR_STATUS, R154. -/
def execClearStatus (s : State) : Host.Outcome State Fault Refusal :=
  runCommand .clearStatus none s { s with ill := false }

end Sys2Proof.Machine
end

