-- ==== Sys2Proof/Machine/VoiceCommands.lean ====
section
/-! DEFINITION. The voice commands of 45_voice.md: PARAM_WR, VOICE_ON, VOICE_OFF and UPDATE. -/

namespace Sys2Proof.Machine

/-- PARAM_WR, R125: every check comes before the first write, so a refused broadcast writes no voice (R159). -/
def execParamWr (v id : Byte) (w : Word) (s : State) : Host.Outcome State Fault Refusal :=
  runCommand (.paramWr v id w) (badTarget s v <|> badParamId id <|> badParamValue s id w) s
    (match ParamId.ofByte id with
      | some p => s.onTargets v (Voice.writeParam s.sr p w)
      | none => s)

/-- VOICE_ON, R126: the controller is bypassed. -/
def execVoiceOn (v : Byte) (freq vel : F32) (s : State) : Host.Outcome State Fault Refusal :=
  runCommand (.voiceOn v freq vel) (badVoice s v) s (s.onVoice v.toNat (Voice.noteOn s.sr freq vel))

/-- VOICE_OFF, R127: the controller is bypassed. -/
def execVoiceOff (v : Byte) (s : State) : Host.Outcome State Fault Refusal :=
  runCommand (.voiceOff v) (badVoice s v) s (s.onVoice v.toNat Voice.noteOff)

/-- UPDATE, R128: unconditional, whether or not a target is DIRTY. -/
def execUpdate (v : Byte) (s : State) : Host.Outcome State Fault Refusal :=
  runCommand (.update v) (badTarget s v) s (s.onTargets v (Voice.update s.sr))

end Sys2Proof.Machine
end

