-- ==== Sys2Proof/Machine/Dispatch.lean ====
section
/-! DEFINITION. One arm per command of R58, each a direct call of the command's meaning. -/

namespace Sys2Proof.Machine

def exec (i : Instr) (s : State) : Host.Outcome State Fault Refusal :=
  match i with
  | .nop => Sys2Proof.Machine.execNop s
  | .reset => Sys2Proof.Machine.execReset s
  | .setSr sr => Sys2Proof.Machine.execSetSr sr s
  | .tick => Sys2Proof.Machine.execTick s
  | .apply => Sys2Proof.Machine.execApply s
  | .readStatus => Sys2Proof.Machine.execReadStatus s
  | .clearStatus => Sys2Proof.Machine.execClearStatus s
  | .paramWr v id w => Sys2Proof.Machine.execParamWr v id w s
  | .voiceOn v freq vel => Sys2Proof.Machine.execVoiceOn v freq vel s
  | .voiceOff v => Sys2Proof.Machine.execVoiceOff v s
  | .update v => Sys2Proof.Machine.execUpdate v s
  | .resSet v m freq amp decay => Sys2Proof.Machine.execResSet v m freq amp decay s
  | .resPing v m => Sys2Proof.Machine.execResPing v m s
  | .biqDesign v b t fc q => Sys2Proof.Machine.execBiqDesign v b t fc q s
  | .formantGain v b gainDb => Sys2Proof.Machine.execFormantGain v b gainDb s
  | .keyDown n vel => Sys2Proof.Machine.execKeyDown n vel s
  | .keyUp n => Sys2Proof.Machine.execKeyUp n s
  | .readSlot v => Sys2Proof.Machine.execReadSlot v s

end Sys2Proof.Machine
end

