-- ==== Sys2Proof/Machine/Step.lean ====
section
/-! DEFINITION. The one step of R147: take the next whole command from the command port and run it. -/

namespace Sys2Proof.Machine

/-- R147. With words of the next command missing the engine waits and nothing changes (R42, R166). A command that the
decoder refuses raises ILL, its operand words consumed (R159). Every other command runs with its words consumed. -/
def step (s : State) : Host.Outcome State Fault Refusal :=
  match decode s.cmd with
  | .waiting => .next s
  | .illegal r w rest => .next (State.raiseIll { reason := r, word := w, operand := none } { s with cmd := rest })
  | .command i rest => exec i { s with cmd := rest }

/-- The state with one command of the host's table on the command port and nothing else on it, so that the next step
takes it. -/
def State.withFetchWord (s : State) (nbits w : Nat) : State := { s with cmd := tableWords nbits w }

end Sys2Proof.Machine
end

