-- ==== Sys2Proof/Safety.lean ====
section
/-! DEFINITION. What the spec promises of every state of a run, in the terms the statements use: the shape of the arrays
and the legal values of registers (R6, R7, R20, R24, R25, R32, R92, R105, R146), and that every derived register agrees
with the registers it is derived from (R29, R32, R33, R34, R101, R106). -/

namespace Sys2Proof.Machine

/-- A command word of opcode `opc` with a bit of `mask` set, the fields that R58 marks 0, is refused with
RESERVED_FIELD_NONZERO once its `n` operand words have arrived: they are consumed, STATUS.ILL is set and, but for the record
of the refusal, nothing else changes (R60, R157, R159). -/
def ZeroFieldsChecked (opc : Nat) (mask : Word) (n : Nat) : Prop :=
  ∀ (s : State) (w : Word) (ops rest : List Word), s.cmd = w :: ops ++ rest → w.toNat / 0x1000000 = opc →
    w &&& mask ≠ 0#32 → ops.length = n →
    step s = .next { s with
      cmd := rest
      ill := true
      illInfo := some { reason := .reservedFieldNonzero, word := w, operand := none } }

/-- A value in [0, 1], NaN excluded. -/
def inUnit (x : F32) : Bool := fle C.zero x && fle x C.one

/-- The envelope invariants of R92 and R88: the value is in [0, 1], it is +0 in Rest, and Hold occurs only under AHR. -/
def Envelope.Ok (t : EnvType) (e : Envelope) : Prop :=
  inUnit e.value = true ∧ (e.state = .rest → e.value = C.zero) ∧ (e.state = .hold → t = .ahr)

/-- The output history of a biquad is finite (R105(d)). -/
def Biquad.Ok (b : Biquad) : Prop := isFinite b.y1 = true ∧ isFinite b.y2 = true

/-- A property of the four bands. -/
def Formant.All (P : Band → Prop) (m : Formant) : Prop := P m.b0 ∧ P m.b1 ∧ P m.b2 ∧ P m.b3

/-- The legal values of one voice on an engine of `maxModes` resonators a voice: among them, MODE_COUNT and the one last
written are in 1..MAX_MODES (R25), and of a voice that is not DIRTY they are the same (R31). -/
def Voice.Ok (maxModes : Nat) (x : Voice) : Prop :=
  x.res.length = maxModes ∧
    1 ≤ x.p.modeCount.toNat ∧ x.p.modeCount.toNat ≤ maxModes ∧
    1 ≤ x.modesWritten.toNat ∧ x.modesWritten.toNat ≤ maxModes ∧
    (x.dirty = false → x.modesWritten = x.p.modeCount) ∧
    x.env.Ok x.p.envType ∧
    x.fmt.All fun b => b.filter.Ok

/-- The invariant of shape and legal values. -/
def State.Ok (s : State) : Prop :=
  (1 ≤ s.nv ∧ s.nv ≤ 16) ∧ (1 ≤ s.maxModes ∧ s.maxModes ≤ 256) ∧
    s.slots.length = s.nv ∧ s.last < s.nv ∧
    (fgt s.sr C.zero = true ∧ flt s.sr posInf = true) ∧
    ∀ x ∈ s.voices, x.Ok s.maxModes

/-- A phasor's increment is its frequency over the sample rate (R29). -/
def Phasor.Derived (sr : F32) (ph : Phasor) : Prop := ph.inc = fdiv ph.freq sr

/-- A band's coefficients are those of its remembered design at the sample rate (R101), and its linear gain is that of
its gain in dB (R33). -/
def Band.Derived (sr : F32) (b : Band) : Prop :=
  b.filter.co = (bqRaw sr b.filter.bt b.filter.fc b.filter.q).normalized ∧ b.gainLin = dbToGain b.gainDb

/-- A resonator's mute bit and coefficient are what R106 derives from its frequency, its decay and the sample rate. -/
def Resonator.Derived (sr : F32) (r : Resonator) : Prop :=
  r.play = resPlay sr r.freq ∧
    r.cr = fmul (resDecayFactor sr r.decay) (cos32 (resAngle sr r.freq)) ∧
    r.ci = fmul (resDecayFactor sr r.decay) (sin32 (resAngle sr r.freq))

/-- Every derived register of a voice agrees with its sources: the three phasors, the envelope increments, the bands and
the mute bit and coefficient of every resonator. -/
def Voice.Derived (sr : F32) (x : Voice) : Prop :=
  x.exc.Derived sr ∧ x.chCtl.Derived sr ∧ x.chGen.Derived sr ∧
    x.env.ainc = envIncrement sr x.p.attack ∧ x.env.rinc = envIncrement sr x.p.release ∧
    (x.fmt.All fun b => b.Derived sr) ∧
    ∀ r ∈ x.res, r.Derived sr

/-- The invariant of derived registers. -/
def State.Derived (s : State) : Prop := ∀ x ∈ s.voices, x.Derived s.sr

end Sys2Proof.Machine
end

