-- ==== Sys2Proof/Certificates/Slice0/Obligations.lean ====
section
/-! DEFINITION. The statements for the provers, drawn from the numbered rules of spec/ in the order of its files:
encodings, the step, the invariants, who writes and emits what, binary32 arithmetic, the units, and one completion
statement with its frame for every command. A frame is said by a record update: every field it does not name is
unchanged. The hardware has no memory (R39), so no statement speaks of one. -/

open Sys2Proof Sys2Proof.Machine

/-! ## Encoding (R54 to R63) -/

/-- Decode of encode is the command, with every field at every value, and exactly its own words are taken (R54 to
R59). -/
def Obligations.DecodeOfEncodeIsTheCommand : Prop :=
  ∀ (i : Instr) (rest : List Word), decode (encode i ++ rest) = .command i rest

/-- What the decoder takes for a command is that command's encoding and nothing else (R54 to R60). -/
def Obligations.DecodedWordsAreTheEncoding : Prop :=
  ∀ (ws : List Word) (i : Instr) (rest : List Word), decode ws = .command i rest → ws = encode i ++ rest

/-- The opcode map of R58 with its zero fields as bit masks (those of opcode_table.json) and operand counts: with its
operand words present, a command word of an assigned opcode decodes where every masked bit is 0 and is refused with
RESERVED_FIELD_NONZERO, operand words consumed, where one is not; a word of any other opcode is refused with
UNKNOWN_OPCODE and is one word long (R59, R60, R63). -/
def Obligations.OpcodeMapAndZeroFields : Prop :=
  ∀ w : Word,
    (∀ row ∈ ([(0x00, 0x00FFFFFF#32, 0), (0x01, 0x00FFFFFF#32, 0), (0x02, 0x00FFFFFF#32, 1), (0x03, 0x00FFFFFF#32, 0),
          (0x04, 0x00FFFFFF#32, 0), (0x05, 0x00FFFFFF#32, 0), (0x06, 0x00FFFFFF#32, 0), (0x10, 0x000000FF#32, 1),
          (0x20, 0x0000FFFF#32, 2), (0x21, 0x0000FFFF#32, 0), (0x22, 0x0000FFFF#32, 0), (0x30, 0x000000FF#32, 3),
          (0x31, 0x000000FF#32, 0), (0x40, 0x00000000#32, 2), (0x41, 0x000000FF#32, 1), (0x50, 0x00FFFF00#32, 1),
          (0x51, 0x00FFFF00#32, 0), (0x52, 0x0000FFFF#32, 0)] : List (Nat × Word × Nat)),
        w.toNat / 0x1000000 = row.1 → ∀ ops rest : List Word, ops.length = row.2.2 →
          (w &&& row.2.1 = 0#32 → ∃ i, decode (w :: ops ++ rest) = .command i rest ∧ encode i = w :: ops) ∧
          (w &&& row.2.1 ≠ 0#32 → decode (w :: ops ++ rest) = .illegal .reservedFieldNonzero w rest)) ∧
      (w.toNat / 0x1000000 ∉ ([0x00, 0x01, 0x02, 0x03, 0x04, 0x05, 0x06, 0x10, 0x20, 0x21, 0x22, 0x30, 0x31, 0x40, 0x41,
          0x50, 0x51, 0x52] : List Nat) →
        ∀ rest : List Word, decode (w :: rest) = .illegal .unknownOpcode w rest)

/-- The example words of the spec decode to the commands they are printed for (R104, R112, R125, R126, R128, R137,
R142 to R144, R150). -/
def Obligations.PrintedWordsDecode : Prop :=
  decode [0x40000200#32, 0x447A0000#32, 0x3F350481#32] = .command (.biqDesign 0#8 2#8 0#8 0x447A0000#32 0x3F350481#32) [] ∧
    decode [0x30010300#32, 0x445C0000#32, 0x3F000000#32, 0x3FC00000#32] =
      .command (.resSet 1#8 3#8 0x445C0000#32 0x3F000000#32 0x3FC00000#32) [] ∧
    decode [0x10FF0100#32, 0x3F000000#32] = .command (.paramWr 0xFF#8 1#8 0x3F000000#32) [] ∧
    decode [0x20000000#32, 0x43DC0000#32, 0x3F800000#32] = .command (.voiceOn 0#8 0x43DC0000#32 0x3F800000#32) [] ∧
    decode [0x22FF0000#32] = .command (.update 0xFF#8) [] ∧
    decode [0x41FF0100#32, 0xC0C00000#32] = .command (.formantGain 0xFF#8 1#8 0xC0C00000#32) [] ∧
    decode [0x5000003C#32, 0x3F800000#32] = .command (.keyDown 60#8 0x3F800000#32) [] ∧
    decode [0x5100003C#32] = .command (.keyUp 60#8) [] ∧
    decode [0x52010000#32] = .command (.readSlot 1#8) [] ∧
    decode [0x02000000#32, 0x472C4400#32] = .command (.setSr 0x472C4400#32) []

/-- A byte transport delivers each command word least significant byte first, and fewer than four bytes are no word
yet; each emitted word leaves the output port as its four bytes, least significant first, after the bytes of the words
before it (R44, R45). Bytes that arrive over a byte transport append to the command port the words they make up and
change nothing else. -/
def Obligations.BytesArriveLeastSignificantFirst : Prop :=
  (∀ (w : Word) (bs : List Byte),
      wordsOfBytes (w.extractLsb' 0 8 :: w.extractLsb' 8 8 :: w.extractLsb' 16 8 :: w.extractLsb' 24 8 :: bs) =
          w :: wordsOfBytes bs ∧
        (bs.length < 4 → wordsOfBytes bs = [])) ∧
    (∀ (s : State) (bs : List Byte), s.receiveBytes bs = { s with cmd := s.cmd ++ wordsOfBytes bs }) ∧
    ∀ (s : State) (w : Word),
      (s.emit w).outBytes =
          s.outBytes ++ [w.extractLsb' 0 8, w.extractLsb' 8 8, w.extractLsb' 16 8, w.extractLsb' 24 8] ∧
        (s.out = [] → s.outBytes = []) ∧ wordsOfBytes s.outBytes = s.out

/-! ## The step (R41, R42, R147, R156 to R159, R166) -/

/-- A step on a port whose first words decode to a command is that command's execution with its words consumed (R147).
-/
def Obligations.StepRunsTheDecodedCommand : Prop :=
  ∀ (s : State) (i : Instr) (rest : List Word), decode s.cmd = .command i rest → step s = exec i { s with cmd := rest }

/-- A command whose operand words have not all arrived has not started, whatever its fields hold: the step changes
nothing, and neither does a step on an empty port. Once the last word has arrived the step runs the command (R42). -/
def Obligations.CommandWaitsForItsLastWord : Prop :=
  ∀ s : State,
    (s.cmd = [] → step s = .next s) ∧
      (∀ (w : Word) (ops : List Word), s.cmd = w :: ops → ops.length < operandCountOf w → step s = .next s) ∧
      ∀ (i : Instr) (missing rest : List Word), s.cmd ++ missing = encode i →
        (missing ≠ [] → step s = .next s) ∧
          step (s.receive (missing ++ rest)) = exec i { s with cmd := rest }

/-- No state stops the machine: every step answers a next state (R166). -/
def Obligations.EveryStepHasANextState : Prop :=
  ∀ s : State, ∃ t, step s = .next t

/-- ILL is precise (R159): a refused command writes only STATUS.ILL (and the model's record of the refusal), emits
nothing and has its words consumed; and a step clears ILL only by CLEAR_STATUS or RESET. The record of a refusal is
the model's own field (R157, log entry 6). -/
def Obligations.RefusalIsPrecise : Prop :=
  ∀ s : State,
    (∀ r w rest, decode s.cmd = .illegal r w rest →
        step s = .next { s with cmd := rest, ill := true, illInfo := some { reason := r, word := w, operand := none } }) ∧
      (∀ i rest, decode s.cmd = .command i rest → i.legal s.nv s.maxModes = false →
        ∃ info, info.word = i.commandWord ∧
          step s = .next { s with cmd := rest, ill := true, illInfo := some info }) ∧
      ∀ t, step s = .next t → s.ill = true → t.ill = false →
        ∃ rest, decode s.cmd = .command .clearStatus rest ∨ decode s.cmd = .command .reset rest

/-- A command is refused exactly when R61 calls it illegal; a legal one never sets ILL. The record of a refusal is the
model's own field (R157, log entry 6). -/
def Obligations.RefusedExactlyWhenIllegal : Prop :=
  ∀ (i : Instr) (s : State),
    (i.legal s.nv s.maxModes = false →
        ∃ r : IllReason, 3 ≤ r.code ∧
          exec i s = .next { s with
            ill := true
            illInfo := some { reason := r, word := i.commandWord,
                              operand := if r = .badValue then i.operands.head? else none } }) ∧
      (i.legal s.nv s.maxModes = true →
        ∃ t, exec i s = .next t ∧ (t.ill = true → s.ill = true) ∧ (t.illInfo = s.illInfo ∨ i = .reset))

/-! ## Invariants -/

/-- The reset state has the shape and the legal values of `State.Ok`. That a written MODE_COUNT waits for the
coefficient update in a field of its own, which `State.Ok` holds in 1..MAX_MODES and equal to MODE_COUNT in a voice
that is not DIRTY, is the model's own choice (log entry 13). -/
def Obligations.ResetStateIsOk : Prop := State.reset.Ok

/-- Every step keeps the shape and the legal values: array sizes, `CTRL.last` below NV (R146), a finite positive
sample rate (R20), MODE_COUNT and the one last written in 1..MAX_MODES (R25) and the same in a voice that is not DIRTY
(that a written MODE_COUNT waits in a field of its own is the model's own choice, log entry 13), the envelope value in
[0, 1], +0 in Rest and Hold only under AHR (R92, R88), finite biquad output histories (R105). -/
def Obligations.StepKeepsOk : Prop :=
  ∀ s t : State, s.Ok → step s = .next t → t.Ok

/-- In the reset state every derived register agrees with its sources: phasor increments (R29), envelope increments (R32),
biquad coefficients (R101), linear gains (R33), and each resonator's mute bit and coefficient cr, ci (R106). -/
def Obligations.ResetStateIsDerived : Prop := State.reset.Derived

/-- Every step keeps every derived register in agreement with its sources at the current sample rate: phasor increments
(R29), envelope increments (R32), biquad coefficients (R101), linear gains (R33), and each resonator's mute bit and
coefficient cr, ci, which R106 derives from its freq, its decay and the sample rate. -/
def Obligations.StepKeepsDerived : Prop :=
  ∀ s t : State, s.Derived → step s = .next t → t.Derived

/-! ## Who writes and who emits -/

/-- Exactly TICK, READ_STATUS and READ_SLOT emit, one word each, and a refused one emits nothing (R43). -/
def Obligations.OnlyThreeCommandsEmit : Prop :=
  ∀ (i : Instr) (s t : State), exec i s = .next t →
    ((i.opcode = .tick ∨ i.opcode = .readStatus ∨ i.opcode = .readSlot) ∧ i.legal s.nv s.maxModes = true →
        ∃ w, t.out = s.out ++ [w]) ∧
      (¬((i.opcode = .tick ∨ i.opcode = .readStatus ∨ i.opcode = .readSlot) ∧ i.legal s.nv s.maxModes = true) →
        t.out = s.out)

/-- Only SET_SR and RESET write G.SR; only KEY_DOWN, KEY_UP and RESET write CTRL (R24, R146(d)); no command changes the
number of voices or the words still to come. Noise draws are taken by TICK alone (R124); that there is a count of them and
that RESET leaves it alone is the model's own choice (log entry 3). -/
def Obligations.WritersOfSharedState : Prop :=
  ∀ (i : Instr) (s t : State), exec i s = .next t →
    (t.sr ≠ s.sr → i.opcode = .setSr ∨ i.opcode = .reset) ∧
      (t.slots ≠ s.slots ∨ t.last ≠ s.last → i.opcode = .keyDown ∨ i.opcode = .keyUp ∨ i.opcode = .reset) ∧
      (t.draws ≠ s.draws → i.opcode = .tick) ∧
      t.cmd = s.cmd ∧ t.nv = s.nv

/-- R146(c): RESET leaves no slot occupied; of the other commands only KEY_DOWN can raise the number of occupied slots, by
one, and only KEY_UP lower it, by one, and each leaves it unchanged otherwise. -/
def Obligations.OccupiedSlotsChangeByOne : Prop :=
  ∀ (i : Instr) (s t : State), exec i s = .next t →
    (i = .reset → t.slots.countP Option.isSome = 0) ∧
      (i ≠ .reset →
        t.slots.countP Option.isSome = s.slots.countP Option.isSome ∨
          (i.opcode = .keyDown ∧ t.slots.countP Option.isSome = s.slots.countP Option.isSome + 1) ∨
          (i.opcode = .keyUp ∧ t.slots.countP Option.isSome + 1 = s.slots.countP Option.isSome))

/-- A broadcast has the effect of NV single-voice commands in ascending order (R125; R128 and R137 likewise). -/
def Obligations.BroadcastEqualsSingleCommands : Prop :=
  ∀ (s : State) (f : Byte → Instr), s.nv ≤ 16 → (f 0xFF#8).legal s.nv s.maxModes = true →
    ((∃ id w, f = fun v => .paramWr v id w) ∨ f = Instr.update ∨ ∃ b g, f = fun v => .formantGain v b g) →
    exec (f 0xFF#8) s =
      (List.range s.nv).foldl
        (fun o v => match o with
          | .next t => exec (f (BitVec.ofNat 8 v)) t
          | .fault r => .fault r
          | .refused r => .refused r)
        (.next s)

/-- R145: with two voices, both slots free and any cursor, the second of two notes takes the other slot, a third is
dropped without any change, and after the release of the first its slot is the one taken again. -/
def Obligations.RoundRobinReusesTheVacatedSlot : Prop :=
  ∀ (s : State) (vel : F32), s.nv = 2 → s.slots = [none, none] → s.last < 2 →
    ∃ s1 s2 s4 s5 : State,
      exec (.keyDown 60#8 vel) s = .next s1 ∧ exec (.keyDown 64#8 vel) s1 = .next s2 ∧
        exec (.keyDown 67#8 vel) s2 = .next s2 ∧ exec (.keyUp 60#8) s2 = .next s4 ∧
        exec (.keyDown 67#8 vel) s4 = .next s5 ∧
        s2.slots = (if s.last = 1 then [some 60#7, some 64#7] else [some 64#7, some 60#7]) ∧
        s5.slots = (if s.last = 1 then [some 67#7, some 64#7] else [some 64#7, some 67#7])

/-! ## Binary32 arithmetic (R12, R13) -/

/-- `+` is rounded to nearest, ties to even: a finite sum of finite values lies no further from the exact sum than any
finite value, an equally near other value leaves the even pattern, a sum becomes infinite only at or beyond half a step
past the largest finite value, and a zero sum is -0 only for two negative zeros. An infinity plus a finite value or plus
itself is that infinity, and the two infinities together give NaN. `-` adds the value with its sign flipped. -/
def Obligations.AdditionIsCorrectlyRounded : Prop :=
  ∀ x y : F32,
    (isFinite x = true → isFinite y = true →
      (isFinite (fadd x y) = true → ∀ z : F32, isFinite z = true →
          |units (fadd x y) - (units x + units y)| ≤ |units z - (units x + units y)| ∧
            (|units (fadd x y) - (units x + units y)| = |units z - (units x + units y)| →
              units z = units (fadd x y) ∨ (fadd x y).toNat % 2 = 0)) ∧
        (isFinite (fadd x y) = false ↔ 0x1FFFFFF * 2 ^ 252 ≤ |units x + units y|) ∧
        (isFinite (fadd x y) = false → fadd x y = if 0 < units x + units y then 0x7F800000#32 else 0xFF800000#32) ∧
        (units x + units y = 0 →
          fadd x y = if x = 0x80000000#32 ∧ y = 0x80000000#32 then 0x80000000#32 else 0x00000000#32)) ∧
      (isInf x = true → isFinite y = true → fadd x y = x ∧ fadd y x = x) ∧
      (isInf x = true → isInf y = true → fadd x y = if x = y then x else 0x7FC00000#32) ∧
      fsub x y = fadd x (y ^^^ 0x80000000#32)

/-- `*` is rounded to nearest, ties to even: the exact product of two finite values is `units x * units y` in steps of
2^-298, that is 2^-149 of a unit. An infinity times a zero is NaN, and times anything else but NaN the infinity of the
product of the signs. -/
def Obligations.MultiplicationIsCorrectlyRounded : Prop :=
  ∀ x y : F32,
    (isFinite x = true → isFinite y = true →
      (isFinite (fmul x y) = true → ∀ z : F32, isFinite z = true →
          |units (fmul x y) * 2 ^ 149 - units x * units y| ≤ |units z * 2 ^ 149 - units x * units y| ∧
            (|units (fmul x y) * 2 ^ 149 - units x * units y| = |units z * 2 ^ 149 - units x * units y| →
              units z = units (fmul x y) ∨ (fmul x y).toNat % 2 = 0)) ∧
        (isFinite (fmul x y) = false ↔ 0x1FFFFFF * 2 ^ 252 * 2 ^ 149 ≤ |units x * units y|) ∧
        isNaN (fmul x y) = false ∧ (signBit (fmul x y) = (signBit x != signBit y))) ∧
      (isInf x = true → isFinite y = true → units y = 0 → fmul x y = 0x7FC00000#32 ∧ fmul y x = 0x7FC00000#32) ∧
      (isInf x = true → isInf y = true ∨ (isFinite y = true ∧ units y ≠ 0) →
        fmul x y = (if signBit x = signBit y then 0x7F800000#32 else 0xFF800000#32) ∧ fmul y x = fmul x y)

/-- `/` is rounded to nearest, ties to even, for a divisor that is not zero: the exact quotient is
`units x * 2^149 / units y` units. A zero divisor gives an infinity, or NaN for a zero dividend. An infinity over a finite
value is an infinity, a finite value over an infinity a zero, each with the sign of the quotient, and an infinity over an
infinity is NaN. -/
def Obligations.DivisionIsCorrectlyRounded : Prop :=
  ∀ x y : F32,
    (isFinite x = true → isFinite y = true →
      (units y ≠ 0 →
          (isFinite (fdiv x y) = true → ∀ z : F32, isFinite z = true →
            |units (fdiv x y) * units y - units x * 2 ^ 149| ≤ |units z * units y - units x * 2 ^ 149| ∧
              (|units (fdiv x y) * units y - units x * 2 ^ 149| = |units z * units y - units x * 2 ^ 149| →
                units z = units (fdiv x y) ∨ (fdiv x y).toNat % 2 = 0)) ∧
          (isFinite (fdiv x y) = false ↔ 0x1FFFFFF * 2 ^ 252 * |units y| ≤ |units x * 2 ^ 149|) ∧
          isNaN (fdiv x y) = false ∧ (signBit (fdiv x y) = (signBit x != signBit y))) ∧
        (units y = 0 → units x ≠ 0 → fdiv x y = if signBit x = signBit y then 0x7F800000#32 else 0xFF800000#32) ∧
        (units y = 0 → units x = 0 → fdiv x y = 0x7FC00000#32)) ∧
      (isInf x = true → isFinite y = true → fdiv x y = if signBit x = signBit y then 0x7F800000#32 else 0xFF800000#32) ∧
      (isFinite x = true → isInf y = true → fdiv x y = if signBit x = signBit y then 0x00000000#32 else 0x80000000#32) ∧
      (isInf x = true → isInf y = true → fdiv x y = 0x7FC00000#32)

/-- Every result of an operation or of a function of R8 that is NaN is the canonical 0x7FC00000, and an operand that
is NaN makes the result of an operation NaN (R12). -/
def Obligations.NaNResultsAreCanonical : Prop :=
  ∀ x y : F32,
    (∀ z ∈ [fadd x y, fsub x y, fmul x y, fdiv x y, sin32 x, cos32 x, sinh32 x, pow32 x y],
        isNaN z = true → z = 0x7FC00000#32) ∧
      (isNaN x = true ∨ isNaN y = true →
        fadd x y = 0x7FC00000#32 ∧ fsub x y = 0x7FC00000#32 ∧ fmul x y = 0x7FC00000#32 ∧ fdiv x y = 0x7FC00000#32)

/-- `<` and `<=` on finite values are the order of the exact values, -0 and +0 equal; -infinity lies below and +infinity
above every other value but NaN; either comparison is false at a NaN; `>` and `>=` are the same with the operands exchanged
(R13). -/
def Obligations.ComparisonsOrderExactValues : Prop :=
  ∀ x y : F32,
    (isFinite x = true → isFinite y = true →
        (flt x y = true ↔ units x < units y) ∧ (fle x y = true ↔ units x ≤ units y)) ∧
      (isNaN x = false →
        (flt x 0x7F800000#32 = true ↔ x ≠ 0x7F800000#32) ∧ (flt 0xFF800000#32 x = true ↔ x ≠ 0xFF800000#32) ∧
          fle x 0x7F800000#32 = true ∧ fle 0xFF800000#32 x = true ∧
          flt 0x7F800000#32 x = false ∧ flt x 0xFF800000#32 = false ∧
          (fle 0x7F800000#32 x = true ↔ x = 0x7F800000#32) ∧ (fle x 0xFF800000#32 = true ↔ x = 0xFF800000#32)) ∧
      (isNaN x = true ∨ isNaN y = true → flt x y = false ∧ fle x y = false) ∧
      fgt x y = flt y x ∧ fge x y = fle y x

/-- The special values of 93_implementation_defined.md I3 that the rules rely on, whatever the configuration's
functions are. -/
def Obligations.SpecialValuesOfTheFunctions : Prop :=
  ∀ x y : F32,
    pow32 x 0x00000000#32 = 0x3F800000#32 ∧ pow32 x 0x80000000#32 = 0x3F800000#32 ∧
      pow32 0x3F800000#32 y = 0x3F800000#32 ∧
      pow32 0x41200000#32 0xFF800000#32 = 0x00000000#32 ∧
      (fle 0x00000000#32 x = true → flt x 0x3F800000#32 = true → pow32 x 0x7F800000#32 = 0x00000000#32) ∧
      (isFinite x = true → flt x 0x00000000#32 = true → isFinite y = true → ¬ (2 ^ 149 : Int) ∣ units y →
        pow32 x y = 0x7FC00000#32) ∧
      sin32 0x00000000#32 = 0x00000000#32 ∧ sin32 0x80000000#32 = 0x80000000#32 ∧
      cos32 0x00000000#32 = 0x3F800000#32 ∧ cos32 0x80000000#32 = 0x3F800000#32 ∧
      sinh32 0x00000000#32 = 0x00000000#32 ∧ sinh32 0x80000000#32 = 0x80000000#32 ∧
      (isNaN x = true → sin32 x = 0x7FC00000#32 ∧ cos32 x = 0x7FC00000#32 ∧ sinh32 x = 0x7FC00000#32) ∧
      (isNaN x = true → y ≠ 0x00000000#32 → y ≠ 0x80000000#32 → pow32 x y = 0x7FC00000#32) ∧
      (isNaN y = true → x ≠ 0x3F800000#32 → pow32 x y = 0x7FC00000#32) ∧
      (isInf x = true → sin32 x = 0x7FC00000#32 ∧ cos32 x = 0x7FC00000#32)

/-! ## Units -/

/-- R68: a tick adds the increment to the phase and subtracts 1 once where the sum is at or above 1, and keeps the
frequency and the increment. Where frequency and increment are infinite the phase is that or NaN, as R165's table says;
that which of the two is left open is the model's own choice (log entry 14). A NaN phase, and that of a NaN increment, is
NaN after the tick (R69(d), R165). R69(a): a phase in [0, 1) with an increment in [0, 1) is in [0, 1) after it. -/
def Obligations.PhaseStaysInRange : Prop :=
  ∀ (ph : Phasor) (next : F32),
    next = (if fle 0x3F800000#32 (fadd ph.phase ph.inc) = true then fsub (fadd ph.phase ph.inc) 0x3F800000#32
            else fadd ph.phase ph.inc) →
      (isInf ph.freq = false ∨ isInf ph.inc = false → ph.tick = { ph with phase := next }) ∧
      (isInf ph.freq = true → isInf ph.inc = true →
        ph.tick = { ph with phase := next } ∨ ph.tick = { ph with phase := 0x7FC00000#32 }) ∧
      (isNaN ph.phase = true ∨ isNaN ph.inc = true → ph.tick.phase = 0x7FC00000#32) ∧
      (fle C.zero ph.phase = true → flt ph.phase C.one = true → fle C.zero ph.inc = true → flt ph.inc C.one = true →
        fle C.zero ph.tick.phase = true ∧ flt ph.tick.phase C.one = true)

/-- From Release with a value in [0, 1] and a release increment of at least 2^-24, below which a subtraction can leave
the value unchanged, either machine reaches Rest with exactly +0 within one tick more than the value's pattern counts,
and stays there (R92(d); the bound is a bound on this model's arithmetic, not the real-number estimate of the source).
-/
def Obligations.ReleaseReachesRest : Prop :=
  ∀ (ty : EnvType) (e : Envelope), e.state = .release → inUnit e.value = true → fle 0x33800000#32 e.rinc = true →
    ∃ n, n ≤ e.value.toNat + 1 ∧
      ∀ k, (((fun a : Envelope => a.tick ty)^[n + k]) e).state = .rest ∧
        (((fun a : Envelope => a.tick ty)^[n + k]) e).value = 0x00000000#32

/-- R85 and R88. From Attack the value after the tick is in [0, 1], the state leaves Attack exactly when the sum
reaches 1, for Hold under AHR and for Release under AR, and the value is then exactly 1, else the sum where it lies
between 0 and 1 and +0 where it does not, at NaN too (clamp01 of R17). Rest returns +0 and Hold under AHR its value,
neither changing; Hold under AR falls to Rest at +0. Release subtracts the increment: at or below 0 it ends in Rest at
+0, else the value is 1, the difference or +0 by the same rule. What a tick returns outside Rest is the new value. -/
def Obligations.AttackEndsAtOne : Prop :=
  ∀ (ty : EnvType) (e : Envelope),
    (e.state = .attack →
      inUnit (e.tick ty).value = true ∧ (e.output ty) = (e.tick ty).value ∧
        (fge (fadd e.value e.ainc) C.one = true →
          e.tick ty = { e with value := 0x3F800000#32, state := match ty with | .ahr => .hold | .ar => .release }) ∧
        (fge (fadd e.value e.ainc) C.one = false → e.tick ty = { e with
            value :=
              if flt 0x00000000#32 (fadd e.value e.ainc) = true ∧ flt (fadd e.value e.ainc) 0x3F800000#32 = true then
                fadd e.value e.ainc
              else 0x00000000#32 })) ∧
      (e.state = .rest → e.tick ty = e ∧ e.output ty = 0x00000000#32) ∧
      (e.state = .hold →
        e.tick ty = (match ty with | .ahr => e | .ar => { e with state := .rest, value := 0x00000000#32 }) ∧
          e.output ty = (e.tick ty).value) ∧
      (e.state = .release →
        e.tick ty = (if fle (fsub e.value e.rinc) C.zero = true then { e with state := .rest, value := 0x00000000#32 }
                     else { e with
                       value :=
                         if fle 0x3F800000#32 (fsub e.value e.rinc) = true then 0x3F800000#32
                         else if flt 0x00000000#32 (fsub e.value e.rinc) = true ∧
                             flt (fsub e.value e.rinc) 0x3F800000#32 = true then fsub e.value e.rinc
                         else 0x00000000#32 }) ∧
          e.output ty = (e.tick ty).value)

/-- The biquad's tick is the difference equation of R102: a NaN or infinite output is replaced by +0, and the histories
shift, the input as it is and the output after the replacement. So the output is always finite (R105(d)), and at `fc = 0` a
bandwidth design, and at `q = 0` a Q design, outputs +0 whatever comes in (R105(a), (b)). -/
def Obligations.DegenerateBiquadsAreSilent : Prop :=
  ∀ (b : Biquad) (sr q fc x : F32),
    (∀ y : F32,
      y = fsub (fsub (fadd (fadd (fmul b.co.nb0 x) (fmul b.co.nb1 b.x1)) (fmul b.co.nb2 b.x2)) (fmul b.co.na1 b.y1))
        (fmul b.co.na2 b.y2) →
      b.output x = (if isFinite y = true then y else 0x00000000#32) ∧
        b.tick x = { b with x1 := x, x2 := b.x1, y1 := b.output x, y2 := b.y1 }) ∧
      isFinite (b.output x) = true ∧
      (isFinite sr = true → flt C.zero sr = true →
        (∀ t ∈ [BiquadType.bpfCpg, BiquadType.notch],
          (b.design sr t C.zero q).co.nb0 = qnan ∧ (b.design sr t C.zero q).output x = 0x00000000#32) ∧
        (∀ t ∈ [BiquadType.lpf, BiquadType.hpf, BiquadType.apf, BiquadType.bpfCsg],
          (b.design sr t fc C.zero).co.na2 = qnan ∧ (b.design sr t fc C.zero).output x = 0x00000000#32))

/-- R106 and R109: a frequency that is NaN, not above 0, or not below half the sample rate mutes the resonator, and a muted
one returns +0 for every input with its state frozen. A playing one follows the complex recurrence: the scaled input is added
to the real part of coefficient times state, and the new imaginary part is the output. -/
def Obligations.OutOfRangeResonatorIsMuted : Prop :=
  ∀ (r : Resonator) (sr f a d x : F32),
    (flt C.zero f = false ∨ flt f (fmul sr C.half) = false →
        (r.setParams sr f a d).tick x = (0x00000000#32, r.setParams sr f a d)) ∧
      (flt C.zero f = true ∧ flt f (fmul sr C.half) = true → (r.setParams sr f a d).play = true) ∧
      (r.setParams sr f a d).yr = r.yr ∧ (r.setParams sr f a d).yi = r.yi ∧
      (r.play = false → r.tick x = (0x00000000#32, r)) ∧
      (r.play = true →
        r.tick x =
          (fadd (fmul r.cr r.yi) (fmul r.ci r.yr),
           { r with
             yr := fadd (fmul r.amp x) (fsub (fmul r.cr r.yr) (fmul r.ci r.yi))
             yi := fadd (fmul r.cr r.yi) (fmul r.ci r.yr) }))

/-- R111: the bank ticks its first `n` resonators, the active ones, on one excitation and sums their outputs from +0
in ascending order; the others are neither ticked nor summed. -/
def Obligations.BankSumsActiveLanesInOrder : Prop :=
  ∀ (x : F32) (n : Nat) (rs : List Resonator),
    bankTick x n C.zero rs =
      (((rs.take n).map fun r => (r.tick x).1).foldl fadd C.zero,
       ((rs.take n).map fun r => (r.tick x).2) ++ rs.drop n)

/-- R117 and R129. The mode's frequency is the note's times the overtone to the power EXPONENT under NyquistStop, divided by
it under Undertones. Under Foldback a raw frequency above the fold point becomes `2 * FOLD_POINT - raw` and any other is
unchanged; of two voices with the same finite doubled fold point, the one with the higher raw frequency, both beyond it,
does not get the higher folded one. -/
def Obligations.FoldbackReflectsAndReverses : Prop :=
  (∀ (x : Voice) (i : Nat) (pw : F32),
      pw = pow32 (fmul (f32OfNat (i + 1)) (fadd 0x3F800000#32 (fmul (f32OfNat i) x.p.inharm))) x.p.exponent →
      (x.p.foldMode = .nyquistStop → x.modeFreq i = fmul x.noteFreq pw) ∧
        (x.p.foldMode = .undertones → x.modeFreq i = fdiv x.noteFreq pw) ∧
        (x.p.foldMode = .foldback →
          x.modeFreq i =
            if flt x.p.foldPoint (fmul x.noteFreq pw) = true then
              fsub (fmul 0x40000000#32 x.p.foldPoint) (fmul x.noteFreq pw)
            else fmul x.noteFreq pw)) ∧
    ∀ (x y : Voice) (i j : Nat) (fx fy : F32), x.p.foldMode = .foldback → y.p.foldMode = .foldback →
      x.p.foldPoint = y.p.foldPoint → isFinite (fmul C.two x.p.foldPoint) = true →
      fx = fmul x.noteFreq (pow32 (fmul (f32OfNat (i + 1)) (fadd C.one (fmul (f32OfNat i) x.p.inharm))) x.p.exponent) →
      fy = fmul y.noteFreq (pow32 (fmul (f32OfNat (j + 1)) (fadd C.one (fmul (f32OfNat j) y.p.inharm))) y.p.exponent) →
      flt x.p.foldPoint fx = true → fle fx fy = true → fle (y.modeFreq j) (x.modeFreq i) = true

/-- R118: the distance of mode `i` is 2 over `i + 1` to the power FALLOFF, times EVEN_GAIN on odd indices and 1 on even ones,
and that of mode 0 is exactly 2 whatever POW32 is. R139: note 69 is exactly 440 Hz. R133, R138(a): 0 dB is a gain of exactly
1, -inf dB of +0, and NaN dB of NaN. R14: the conversion of an integer up to 257 is exact. -/
def Obligations.ReferencePitchGainAndDistance : Prop :=
  (∀ (x : Voice) (i : Nat),
      x.modeDist i =
        fmul (fdiv 0x40000000#32 (pow32 (f32OfNat (i + 1)) x.p.falloff)) (if i % 2 = 1 then x.p.evenGain else 0x3F800000#32)) ∧
    (∀ x : Voice, x.modeDist 0 = 0x40000000#32) ∧ midiToFreq 69 = 0x43DC0000#32 ∧
    dbToGain 0x00000000#32 = 0x3F800000#32 ∧ dbToGain 0xFF800000#32 = 0x00000000#32 ∧
    (∀ g : F32, isNaN g = true → dbToGain g = 0x7FC00000#32) ∧
    ∀ n : Nat, n ≤ 257 → isFinite (f32OfNat n) = true ∧ units (f32OfNat n) = n * 2 ^ 149

/-- R124: every draw lies in [-C_0P05, C_0P05], and the draw decides nothing of a voice whose exciter is not Noise. -/
def Obligations.NoiseIsBoundedAndOnlyHeardUnderNoise : Prop :=
  (∀ k, fle 0xBD4CCCCD#32 (noiseDraw k) = true ∧ fle (noiseDraw k) 0x3D4CCCCD#32 = true) ∧
    ∀ (x : Voice) (sr n n' : F32), x.p.excKind ≠ .noise → x.tick sr n = x.tick sr n'

/-- R179: from reset, before any coefficient update, a TICK emits the zero word, on an engine of any size. -/
def Obligations.ResetEngineTicksSilence : Prop :=
  ∀ nv mm : Nat, ∃ t, exec .tick (State.resetWith nv mm) = .next t ∧ t.out = [0x00000000#32]

/-! ## System commands (R148 to R154, R176, R177) -/

/-- NOP (R148): the zero word, which changes nothing; any other word of opcode 0 is refused (R60). The record of a
refusal is the model's own field (R157, log entry 6). -/
def Obligations.NopChangesNothing : Prop :=
  encode .nop = [0x00000000#32] ∧ ZeroFieldsChecked 0x00 0x00FFFFFF#32 0 ∧ ∀ s : State, exec .nop s = .next s

/-- RESET (R149, R176): the power-on state of an engine of the same size, with the words on both ports kept; a word
with a zero field set is refused. That the count of noise draws goes on and the record of the last refusal is cleared
is the model's own choice (log entries 3 and 6), as is the field of the MODE_COUNT last written, which is 1 as
MODE_COUNT is (log entry 13). -/
def Obligations.ResetRestoresPowerOn : Prop :=
  encode .reset = [0x01000000#32] ∧ ZeroFieldsChecked 0x01 0x00FFFFFF#32 0 ∧
    ∀ s : State, exec .reset s =
      .next { State.resetWith s.nv s.maxModes with cmd := s.cmd, out := s.out, draws := s.draws } ∧
        ∀ x ∈ (State.resetWith s.nv s.maxModes).voices, x.modesWritten = 1#32

/-- The reset values of R177's table, by their patterns, for an engine of any size. -/
def Obligations.ResetValuesOfTheTable : Prop :=
  ∀ nv mm : Nat, ∀ t : State, t = State.resetWith nv mm →
    t.sr = 0x473B8000#32 ∧ t.ill = false ∧ statusWord t.ill t.voices = 0x00000000#32 ∧
      t.slots.length = nv ∧ (∀ c ∈ t.slots, c = none) ∧ t.last = nv - 1 ∧ t.voices.length = nv ∧
      ∀ x ∈ t.voices,
        x.p = { modeCount := 1#32, inharm := 0x00000000#32, exponent := 0x3F800000#32, falloff := 0x3F800000#32,
                decay := 0x3F800000#32, evenGain := 0x3F800000#32, foldMode := .nyquistStop, foldPoint := 0x469C4000#32,
                excRate := 0x3F800000#32, excKind := .impulse, attack := 0x3C23D70A#32, release := 0x3F000000#32,
                fmtX := 0x00000000#32, fmtY := 0x00000000#32, fmtZ := 0x00000000#32, fmtLen := 0x00000000#32,
                fmtMix := 0x00000000#32, fmtArch := .parallel, envType := .ahr } ∧
          x.noteFreq = 0x00000000#32 ∧ x.velocity = 0x00000000#32 ∧ x.dirty = false ∧
          x.res.length = mm ∧ (∀ r ∈ x.res, r = ⟨0#32, 0#32, 0#32, 0#32, 0#32, 0#32, 0#32, false⟩) ∧
          x.exc = ⟨0#32, 0#32, 0#32⟩ ∧ x.chCtl = ⟨0#32, 0#32, 0#32⟩ ∧ x.chGen = ⟨0#32, 0#32, 0#32⟩ ∧
          x.env = { state := .rest, value := 0x00000000#32, ainc := 0x3B088889#32, rinc := 0x382EC33E#32 } ∧
          ∀ bf ∈ [(x.fmt.b0, 0x43870000#32), (x.fmt.b1, 0x44520000#32), (x.fmt.b2, 0x44D34000#32),
              (x.fmt.b3, 0x455AC000#32)],
            bf.1.gainDb = 0x00000000#32 ∧ bf.1.gainLin = 0x3F800000#32 ∧ bf.1.filter.bt = .bpfCpg ∧
              bf.1.filter.q = 0x3DCCCCCD#32 ∧ bf.1.filter.fc = bf.2 ∧
              bf.1.filter.co = (bqRaw 0x473B8000#32 .bpfCpg bf.2 0x3DCCCCCD#32).normalized ∧
              bf.1.filter.x1 = 0#32 ∧ bf.1.filter.x2 = 0#32 ∧ bf.1.filter.y1 = 0#32 ∧ bf.1.filter.y2 = 0#32

/-- SET_SR (R150): a finite positive rate is stored and every rate-dependent value of every voice derived again, while
phases, envelope values, resonator states and histories are kept; any other rate is refused. A word with a zero field
set is refused (R60). The record of a refusal is the model's own field (R157, log entry 6). -/
def Obligations.SetSrDerivesEveryRateValue : Prop :=
  ∀ (sr : F32) (s : State),
    encode (.setSr sr) = [0x02000000#32, sr] ∧ ZeroFieldsChecked 0x02 0x00FFFFFF#32 1 ∧
      ((0 < sr.toNat ∧ sr.toNat < 0x7F800000) →
        exec (.setSr sr) s = .next { s with
          sr := sr
          voices := s.voices.map fun x => { x with
            exc := { x.exc with inc := fdiv x.exc.freq sr }
            chCtl := { x.chCtl with inc := fdiv x.chCtl.freq sr }
            chGen := { x.chGen with inc := fdiv x.chGen.freq sr }
            env := { x.env with
              ainc := fdiv C.one (fmul x.p.attack sr)
              rinc := fdiv C.one (fmul x.p.release sr) }
            fmt :=
              { b0 := x.fmt.b0.design sr x.fmt.b0.filter.bt x.fmt.b0.filter.fc x.fmt.b0.filter.q
                b1 := x.fmt.b1.design sr x.fmt.b1.filter.bt x.fmt.b1.filter.fc x.fmt.b1.filter.q
                b2 := x.fmt.b2.design sr x.fmt.b2.filter.bt x.fmt.b2.filter.fc x.fmt.b2.filter.q
                b3 := x.fmt.b3.design sr x.fmt.b3.filter.bt x.fmt.b3.filter.fc x.fmt.b3.filter.q }
            res := x.res.map fun r => { r with
              play := flt C.zero r.freq && flt r.freq (fmul sr C.half)
              cr := fmul (pow32 0x3A83126F#32 (fdiv C.one (fmul r.decay sr))) (cos32 (fdiv (fmul 0x40C90FDB#32 r.freq) sr))
              ci := fmul (pow32 0x3A83126F#32 (fdiv C.one (fmul r.decay sr))) (sin32 (fdiv (fmul 0x40C90FDB#32 r.freq) sr)) } } }) ∧
      (¬(0 < sr.toNat ∧ sr.toNat < 0x7F800000) →
        exec (.setSr sr) s = .next { s with
          ill := true, illInfo := some { reason := .badValue, word := 0x02000000#32, operand := some sr } })

/-- TICK (R151): every voice ticks with its own draw, the outputs are summed from +0 in ascending order, and the sum
times C_0P1 is emitted. Nothing outside the voices changes but the output port and the number of draws taken. That
voice v's draw on a tick is number `draws + v` of one stream is the model's own choice (log entry 3); nothing is known
of the draws but their range. A word with a zero field set is refused (R60). The record of a refusal is the model's
own field (R157, log entry 6). -/
def Obligations.TickSumsEveryVoice : Prop :=
  encode .tick = [0x03000000#32] ∧ ZeroFieldsChecked 0x03 0x00FFFFFF#32 0 ∧
    ∀ s : State, exec .tick s = .next { s with
      voices := s.voices.mapIdx fun v x => (x.tick s.sr (noiseDraw (s.draws + v))).2
      draws := s.draws + s.nv
      out := s.out ++
        [fmul ((s.voices.mapIdx fun v x => (x.tick s.sr (noiseDraw (s.draws + v))).1).foldl fadd C.zero) 0x3DCCCCCD#32] }

/-- A voice's tick (R123) ticks the exciter phasor, the chirp pair and the envelope once: the chirp's generator is set
to 20 Hz plus 19980 times the new control phase and then ticked (R79). It leaves alone the parameters, note frequency,
velocity and DIRTY; of a resonator everything but the delay state, and of an inactive or muted one that too (R35,
R109); of a formant band everything but the history. No parameter of class mode, written or not, has an effect on a
tick before the next coefficient update (R25, R125). That a written MODE_COUNT waits for that update in a field of its
own is the model's own choice (log entry 13). -/
def Obligations.VoiceTickFrame : Prop :=
  ∀ (x : Voice) (sr n : F32),
    (x.tick sr n).2.exc = x.exc.tick ∧ (x.tick sr n).2.env = x.env.tick x.p.envType ∧
      (x.tick sr n).2.chCtl = x.chCtl.tick ∧
      (∀ f : F32, f = fadd 0x41A00000#32 (fmul 0x469C1800#32 x.chCtl.tick.phase) →
        (x.tick sr n).2.chGen = Phasor.tick { x.chGen with freq := f, inc := fdiv f sr }) ∧
      (x.tick sr n).2.p = x.p ∧ (x.tick sr n).2.noteFreq = x.noteFreq ∧ (x.tick sr n).2.velocity = x.velocity ∧
      (x.tick sr n).2.dirty = x.dirty ∧ (x.tick sr n).2.modesWritten = x.modesWritten ∧
      (∀ (mc : Word) (ih ex fa de eg fp er : F32) (fm : FoldMode) (d : Bool) (y : Voice),
        y = { x with
          p := { x.p with inharm := ih, exponent := ex, falloff := fa, decay := de, evenGain := eg, foldMode := fm,
                          foldPoint := fp, excRate := er }
          dirty := d
          modesWritten := mc } →
        y.tick sr n = ((x.tick sr n).1, { (x.tick sr n).2 with p := y.p, dirty := d, modesWritten := mc })) ∧
      (x.tick sr n).2.res.length = x.res.length ∧
      (∀ (m : Nat) (r r' : Resonator), x.res[m]? = some r → (x.tick sr n).2.res[m]? = some r' →
        r' = { r with yr := r'.yr, yi := r'.yi } ∧ (x.p.modeCount.toNat ≤ m ∨ r.play = false → r' = r)) ∧
      (∀ bb ∈ [(x.fmt.b0, (x.tick sr n).2.fmt.b0), (x.fmt.b1, (x.tick sr n).2.fmt.b1),
          (x.fmt.b2, (x.tick sr n).2.fmt.b2), (x.fmt.b3, (x.tick sr n).2.fmt.b3)],
        bb.2 = { bb.1 with filter := { bb.1.filter with x1 := bb.2.filter.x1, x2 := bb.1.filter.x1,
                                                        y1 := bb.2.filter.y1, y2 := bb.1.filter.y1 } })

/-- R123: a voice's output is the blend of the bank's sum and the formant output times the squared velocity; a voice
of velocity zero outputs a zero, whatever rings in it, where that blend is finite. The excitation `s` is that of R122
for each exciter kind, from the exciter phasor after its tick, with the waveforms of R70 to R77 written out (the
square's width is 0.5), and the chirp the sine of the generator's new phase (R79). The formant output is R135's: every
band ticks once, on the bank's sum under Parallel, on the output of the band before under Cascade, and the band
outputs times their linear gains are summed from +0 in ascending order. The bank's mask is P.MODE_COUNT (R111); that a
written MODE_COUNT comes into it only at the coefficient update is the model's own choice (log entry 13). -/
def Obligations.VoiceOutputIsBlendTimesSquaredVelocity : Prop :=
  (∀ ph dt w : F32,
      wfSaw ph = fsub (fmul 0x40000000#32 ph) 0x3F800000#32 ∧ wfSine ph = sin32 (fmul 0x40C90FDB#32 ph) ∧
        wfTri ph = fsub (fmul 0x40800000#32 (fsub ph 0x3F000000#32 &&& 0x7FFFFFFF#32)) 0x3F800000#32 ∧
        wfRect ph w = (if fle (fsub 0x3F800000#32 w) ph = true then 0x3F800000#32 else 0xBF800000#32) ∧
        blep ph dt =
          (if flt ph dt = true then
            fsub (fsub (fadd (fdiv ph dt) (fdiv ph dt)) (fmul (fdiv ph dt) (fdiv ph dt))) 0x3F800000#32
          else if flt (fsub 0x3F800000#32 dt) ph = true then
            fadd (fadd (fadd (fmul (fdiv (fsub ph 0x3F800000#32) dt) (fdiv (fsub ph 0x3F800000#32) dt))
              (fdiv (fsub ph 0x3F800000#32) dt)) (fdiv (fsub ph 0x3F800000#32) dt)) 0x3F800000#32
          else 0x00000000#32) ∧
        wfAaSaw ph dt = fsub (fsub (fmul 0x40000000#32 ph) 0x3F800000#32) (blep ph dt) ∧
        wfAaRect ph dt w =
          fsub (wfAaSaw ph dt)
            (wfAaSaw (if fle 0x3F800000#32 (fadd ph w) = true then fsub (fadd ph w) 0x3F800000#32 else fadd ph w) dt)) ∧
    ∀ (x : Voice) (sr n : F32), ∃ s raw fo i1 i2 i3 : F32,
      s = (match x.p.excKind with
          | .noise => n
          | .impulses => fmul Config.kImpulses (Config.impTrain x.exc.tick.phase x.exc.tick.inc)
          | .square => fmul Config.kSquare (wfAaRect x.exc.tick.phase x.exc.tick.inc 0x3F000000#32)
          | .chirp => fmul Config.kChirp (wfSine (x.tick sr n).2.chGen.phase)
          | .impulse => 0x00000000#32) ∧
        (raw, (x.tick sr n).2.res) = bankTick (fmul s (x.env.output x.p.envType)) x.p.modeCount.toNat C.zero x.res ∧
        (x.p.fmtArch = .parallel → i1 = raw ∧ i2 = raw ∧ i3 = raw) ∧
        (x.p.fmtArch = .cascade →
          i1 = x.fmt.b0.filter.output raw ∧ i2 = x.fmt.b1.filter.output i1 ∧ i3 = x.fmt.b2.filter.output i2) ∧
        fo = fadd (fadd (fadd (fadd 0x00000000#32 (fmul x.fmt.b0.gainLin (x.fmt.b0.filter.output raw)))
            (fmul x.fmt.b1.gainLin (x.fmt.b1.filter.output i1))) (fmul x.fmt.b2.gainLin (x.fmt.b2.filter.output i2)))
          (fmul x.fmt.b3.gainLin (x.fmt.b3.filter.output i3)) ∧
        (x.tick sr n).2.fmt =
          { b0 := { x.fmt.b0 with filter := x.fmt.b0.filter.tick raw }
            b1 := { x.fmt.b1 with filter := x.fmt.b1.filter.tick i1 }
            b2 := { x.fmt.b2 with filter := x.fmt.b2.filter.tick i2 }
            b3 := { x.fmt.b3 with filter := x.fmt.b3.filter.tick i3 } } ∧
        (x.tick sr n).1 = fmul (fadd (fmul (fsub C.one x.p.fmtMix) raw) (fmul x.p.fmtMix fo)) (fmul x.velocity x.velocity) ∧
        (isFinite (fadd (fmul (fsub C.one x.p.fmtMix) raw) (fmul x.p.fmtMix fo)) = true → units x.velocity = 0 →
          units (x.tick sr n).1 = 0)

/-- APPLY (R152): every dirty voice is updated and no other is touched; with no dirty voice nothing changes. A word
with a zero field set is refused (R60). The record of a refusal is the model's own field (R157, log entry 6). -/
def Obligations.ApplyUpdatesDirtyVoices : Prop :=
  encode .apply = [0x04000000#32] ∧ ZeroFieldsChecked 0x04 0x00FFFFFF#32 0 ∧
    ∀ s : State,
      exec .apply s = .next { s with voices := s.voices.map fun x => if x.dirty then x.update s.sr else x } ∧
        ((∀ x ∈ s.voices, x.dirty = false) → exec .apply s = .next s) ∧
        ∀ t, exec .apply s = .next t → ∀ x ∈ t.voices, x.dirty = false

/-- READ_STATUS (R23, R153): one word is emitted, with ILL in bit 0, 0 in bits 15:1, and in bit 16+v the DIRTY bit of
voice v, or 0 where there is no such voice; nothing else changes. A word with a zero field set is refused (R60). The
record of a refusal is the model's own field (R157, log entry 6). -/
def Obligations.ReadStatusEmitsIllAndDirty : Prop :=
  encode .readStatus = [0x05000000#32] ∧ ZeroFieldsChecked 0x05 0x00FFFFFF#32 0 ∧
    ∀ s : State, ∃ w : Word,
      exec .readStatus s = .next { s with out := s.out ++ [w] } ∧
        w.getLsbD 0 = s.ill ∧ (∀ k, 1 ≤ k → k ≤ 15 → w.getLsbD k = false) ∧
        ∀ v, v < 16 → w.getLsbD (16 + v) = ((s.voices[v]?).map Voice.dirty).getD false

/-- CLEAR_STATUS (R154): ILL is cleared and nothing else of the machine changes; a word with a zero field set is
refused. That the model's record of the last refusal stays is the model's own choice (log entry 6). -/
def Obligations.ClearStatusClearsIll : Prop :=
  encode .clearStatus = [0x06000000#32] ∧ ZeroFieldsChecked 0x06 0x00FFFFFF#32 0 ∧
    ∀ s : State, exec .clearStatus s = .next { s with ill := false }

/-! ## Voice commands (R116, R119, R120, R125 to R128) -/

/-- PARAM_WR of a mode-class f32 register or of MODE_COUNT (R25, R31, R125), on one voice and on all: a new pattern is
stored and sets DIRTY, and the held pattern changes nothing. Nothing else of the machine changes: a MODE_COUNT waits
in a field of its own for the next coefficient update (R25; that it does is the model's own choice, log entry 13), and
the resonators stay as they are. A word with a zero field set is refused (R60). The record of a refusal is the model's
own field (R157, log entry 6). -/
def Obligations.ParamWrModeClass : Prop :=
  ∀ (s : State) (v : Byte) (w : Word),
    ∀ row ∈ ([(0x00#8, (·.modesWritten), fun w x => { x with modesWritten := w }),
          (0x01#8, (·.p.inharm), fun w x => { x with p := { x.p with inharm := w } }),
          (0x02#8, (·.p.exponent), fun w x => { x with p := { x.p with exponent := w } }),
          (0x03#8, (·.p.falloff), fun w x => { x with p := { x.p with falloff := w } }),
          (0x04#8, (·.p.decay), fun w x => { x with p := { x.p with decay := w } }),
          (0x05#8, (·.p.evenGain), fun w x => { x with p := { x.p with evenGain := w } }),
          (0x07#8, (·.p.foldPoint), fun w x => { x with p := { x.p with foldPoint := w } }),
          (0x08#8, (·.p.excRate), fun w x => { x with p := { x.p with excRate := w } })] :
            List (Byte × (Voice → Word) × (Word → Voice → Voice))),
      (row.1 = 0x00#8 → 1 ≤ w.toNat ∧ w.toNat ≤ s.maxModes) →
        encode (.paramWr v row.1 w) = [0x10#8 ++ v ++ row.1 ++ 0x00#8, w] ∧ ZeroFieldsChecked 0x10 0x000000FF#32 1 ∧
        (v ≠ 0xFF#8 → v.toNat < s.nv →
          exec (.paramWr v row.1 w) s = .next { s with
            voices := s.voices.modify v.toNat fun x =>
              if w = row.2.1 x then x else { row.2.2 w x with dirty := true } }) ∧
        exec (.paramWr 0xFF#8 row.1 w) s = .next { s with
          voices := s.voices.map fun x => if w = row.2.1 x then x else { row.2.2 w x with dirty := true } }

/-- PARAM_WR of a now-class f32 register (R125): ATTACK and RELEASE set their increment (R82, R83), a vowel register
redesigns the four bands (R132), FMT_MIX is only stored; DIRTY is not changed. -/
def Obligations.ParamWrNowClass : Prop :=
  ∀ (s : State) (v : Byte) (w : Word),
    ∀ row ∈ ([(0x0A#8, fun x => { x with p := { x.p with attack := w },
                                         env := { x.env with ainc := fdiv C.one (fmul w s.sr) } }),
          (0x0B#8, fun x => { x with p := { x.p with release := w },
                                     env := { x.env with rinc := fdiv C.one (fmul w s.sr) } }),
          (0x0C#8, fun x => Voice.setVowel s.sr { x with p := { x.p with fmtX := w } }),
          (0x0D#8, fun x => Voice.setVowel s.sr { x with p := { x.p with fmtY := w } }),
          (0x0E#8, fun x => Voice.setVowel s.sr { x with p := { x.p with fmtZ := w } }),
          (0x0F#8, fun x => Voice.setVowel s.sr { x with p := { x.p with fmtLen := w } }),
          (0x10#8, fun x => { x with p := { x.p with fmtMix := w } })] : List (Byte × (Voice → Voice))),
      (v ≠ 0xFF#8 → v.toNat < s.nv →
          exec (.paramWr v row.1 w) s = .next { s with voices := s.voices.modify v.toNat row.2 }) ∧
        exec (.paramWr 0xFF#8 row.1 w) s = .next { s with voices := s.voices.map row.2 }

/-- R131 and R132: a vowel write designs the four bands as constant-peak-gain bandpasses of 0.1 octave at F1 to F4,
the histories and gains kept and nothing else of the voice changed. -/
def Obligations.VowelDesignsFourBands : Prop :=
  ∀ (x : Voice) (sr r : F32), r = fadd 0x3F800000#32 (fmul x.p.fmtLen 0x3F000000#32) →
    ∃ f : Formant, x.setVowel sr = { x with fmt := f } ∧
      ∀ row ∈ [(x.fmt.b0, f.b0, fmul (fadd 0x43870000#32 (fmul x.p.fmtX 0x43C30000#32)) r),
          (x.fmt.b1, f.b1, fmul (fadd 0x44520000#32 (fmul x.p.fmtY 0x44B54000#32)) r),
          (x.fmt.b2, f.b2, fmul (fadd 0x44D34000#32 (fmul x.p.fmtZ 0x44A50000#32)) r),
          (x.fmt.b3, f.b3, fmul 0x455AC000#32 r)],
        row.2.1 = { row.1 with filter := { row.1.filter with
          bt := .bpfCpg, fc := row.2.2, q := 0x3DCCCCCD#32,
          co := (bqRaw sr .bpfCpg row.2.2 0x3DCCCCCD#32).normalized } }

/-- PARAM_WR of an enumeration (R26, R125), on one voice and on all, for every legal code: FOLD_MODE is mode-class;
EXC_KIND resets the envelope only on a switch away from Noise (R121); FMT_ARCH is only stored; ENV_TYPE resets the
envelope on a change (R90, R91). -/
def Obligations.ParamWrEnumerations : Prop :=
  ∀ (s : State) (v : Byte),
    ∀ row ∈ (([(0#32, FoldMode.nyquistStop), (1#32, .undertones), (2#32, .foldback)].map fun cm =>
            (0x06#8, cm.1, fun x : Voice =>
              if x.p.foldMode = cm.2 then x else { x with p := { x.p with foldMode := cm.2 }, dirty := true })) ++
          ([(0#32, ExcKind.noise), (1#32, .impulses), (2#32, .square), (3#32, .chirp), (4#32, .impulse)].map fun ck =>
            (0x09#8, ck.1, fun x : Voice =>
              if x.p.excKind = .noise ∧ ck.2 ≠ .noise then
                { x with p := { x.p with excKind := ck.2 }, env := { x.env with state := .rest, value := 0x00000000#32 } }
              else { x with p := { x.p with excKind := ck.2 } })) ++
          ([(0#32, FmtArch.parallel), (1#32, .cascade)].map fun ca =>
            (0x11#8, ca.1, fun x : Voice => { x with p := { x.p with fmtArch := ca.2 } })) ++
          ([(0#32, EnvType.ahr), (1#32, .ar)].map fun ct =>
            (0x12#8, ct.1, fun x : Voice =>
              if x.p.envType = ct.2 then x
              else { x with p := { x.p with envType := ct.2 },
                            env := { x.env with state := .rest, value := 0x00000000#32 } })) :
            List (Byte × Word × (Voice → Voice))),
      (v ≠ 0xFF#8 → v.toNat < s.nv →
          exec (.paramWr v row.1 row.2.1) s = .next { s with voices := s.voices.modify v.toNat row.2.2 }) ∧
        exec (.paramWr 0xFF#8 row.1 row.2.1) s = .next { s with voices := s.voices.map row.2.2 }

/-- The refusals of PARAM_WR in the order of R60 and R158: a bad voice before a bad parameter id before a bad value,
whatever else fails after it. The record of a refusal is the model's own field (R157, log entry 6). -/
def Obligations.ParamWrRefusalsInOrder : Prop :=
  ∀ (s : State) (v id : Byte) (w : Word),
    (¬(v.toNat < s.nv ∨ v = 0xFF#8) →
        exec (.paramWr v id w) s = .next { s with
          ill := true
          illInfo := some { reason := .badVoice, word := 0x10#8 ++ v ++ id ++ 0x00#8, operand := none } }) ∧
      ((v.toNat < s.nv ∨ v = 0xFF#8) → 0x12 < id.toNat →
        exec (.paramWr v id w) s = .next { s with
          ill := true
          illInfo := some { reason := .badParamId, word := 0x10#8 ++ v ++ id ++ 0x00#8, operand := none } }) ∧
      ((v.toNat < s.nv ∨ v = 0xFF#8) →
        (id = 0x00#8 ∧ ¬(1 ≤ w.toNat ∧ w.toNat ≤ s.maxModes)) ∨ (id = 0x06#8 ∧ 2 < w.toNat) ∨
          (id = 0x09#8 ∧ 4 < w.toNat) ∨ (id = 0x11#8 ∧ 1 < w.toNat) ∨ (id = 0x12#8 ∧ 1 < w.toNat) →
        exec (.paramWr v id w) s = .next { s with
          ill := true
          illInfo := some { reason := .badValue, word := 0x10#8 ++ v ++ id ++ 0x00#8, operand := some w } })

/-- VOICE_ON (R119, R126): frequency and velocity are stored, the coefficients updated, and under Impulse the active
resonators pinged, under every other kind the envelope sent to Attack with its value kept; only voice v changes, and
CTRL does not. A voice that does not exist is refused. A word with a zero field set is refused (R60). The record of a
refusal is the model's own field (R157, log entry 6). -/
def Obligations.VoiceOnStartsOneVoice : Prop :=
  ∀ (s : State) (v : Byte) (freq vel : F32),
    encode (.voiceOn v freq vel) = [0x20#8 ++ v ++ 0x00#8 ++ 0x00#8, freq, vel] ∧ ZeroFieldsChecked 0x20 0x0000FFFF#32 2 ∧
      (v.toNat < s.nv → ∃ g : Voice → Voice,
        exec (.voiceOn v freq vel) s = .next { s with voices := s.voices.modify v.toNat g } ∧
          ∀ x y : Voice, y = Voice.update s.sr { x with noteFreq := freq, velocity := vel } →
            (x.p.excKind = .impulse → g x = { y with
              res := y.res.mapIdx fun m r => if m < y.p.modeCount.toNat then { r with yr := r.amp, yi := 0x00000000#32 } else r }) ∧
            (x.p.excKind ≠ .impulse → g x = { y with env := { x.env with state := .attack } })) ∧
      (s.nv ≤ v.toNat →
        exec (.voiceOn v freq vel) s = .next { s with
          ill := true
          illInfo := some { reason := .badVoice, word := 0x20#8 ++ v ++ 0x00#8 ++ 0x00#8, operand := none } })

/-- VOICE_OFF (R120, R127): no effect under Impulse, or under an AR envelope, which releases itself; else the envelope
goes to Release whatever its state, its value kept. Only voice v changes, and CTRL does not. A word with a zero field
set is refused (R60). The record of a refusal is the model's own field (R157, log entry 6). -/
def Obligations.VoiceOffReleasesOneVoice : Prop :=
  ∀ (s : State) (v : Byte),
    encode (.voiceOff v) = [0x21#8 ++ v ++ 0x00#8 ++ 0x00#8] ∧ ZeroFieldsChecked 0x21 0x0000FFFF#32 0 ∧
      (v.toNat < s.nv →
        exec (.voiceOff v) s = .next { s with
          voices := s.voices.modify v.toNat fun x =>
            if x.p.excKind = .impulse ∨ x.p.envType = .ar then x
            else { x with env := { x.env with state := .release } } }) ∧
      (s.nv ≤ v.toNat →
        exec (.voiceOff v) s = .next { s with
          ill := true
          illInfo := some { reason := .badVoice, word := 0x21#8 ++ v ++ 0x00#8 ++ 0x00#8, operand := none } })

/-- UPDATE (R116, R128), on one voice and on all, whether or not DIRTY: every active resonator gets the mode's
frequency, distance and decay and the coefficient of R106 with its delay state kept, the exciter and chirp rates are
set, DIRTY is cleared, the MODE_COUNT last written comes into effect (that it waits in a field of its own is the
model's own choice, log entry 13), and nothing else changes. A word with a zero field set is refused (R60). The record
of a refusal is the model's own field (R157, log entry 6). -/
def Obligations.UpdateRecomputesTheModes : Prop :=
  ∀ (s : State) (v : Byte),
    let g : Voice → Voice := fun x => { x with
        p := { x.p with modeCount := x.modesWritten }
        res := x.res.mapIdx fun i r =>
          if i < x.modesWritten.toNat then
            { r with
              freq := x.modeFreq i
              amp := x.modeDist i
              decay := fmul (x.modeDist i) x.p.decay
              play := flt C.zero (x.modeFreq i) && flt (x.modeFreq i) (fmul s.sr C.half)
              cr := fmul (pow32 0x3A83126F#32 (fdiv C.one (fmul (fmul (x.modeDist i) x.p.decay) s.sr)))
                (cos32 (fdiv (fmul 0x40C90FDB#32 (x.modeFreq i)) s.sr))
              ci := fmul (pow32 0x3A83126F#32 (fdiv C.one (fmul (fmul (x.modeDist i) x.p.decay) s.sr)))
                (sin32 (fdiv (fmul 0x40C90FDB#32 (x.modeFreq i)) s.sr)) }
          else r
        exc := { x.exc with freq := fdiv x.noteFreq x.p.excRate, inc := fdiv (fdiv x.noteFreq x.p.excRate) s.sr }
        chCtl := { x.chCtl with freq := fdiv x.noteFreq x.p.excRate, inc := fdiv (fdiv x.noteFreq x.p.excRate) s.sr }
        dirty := false }
    encode (.update v) = [0x22#8 ++ v ++ 0x00#8 ++ 0x00#8] ∧ ZeroFieldsChecked 0x22 0x0000FFFF#32 0 ∧
      (v ≠ 0xFF#8 → v.toNat < s.nv →
        exec (.update v) s = .next { s with voices := s.voices.modify v.toNat g }) ∧
      exec (.update 0xFF#8) s = .next { s with voices := s.voices.map g } ∧
      (s.nv ≤ v.toNat → v ≠ 0xFF#8 →
        exec (.update v) s = .next { s with
          ill := true
          illInfo := some { reason := .badVoice, word := 0x22#8 ++ v ++ 0x00#8 ++ 0x00#8, operand := none } })

/-! ## Resonator and filter commands (R104, R112, R113, R137) -/

/-- RES_SET (R112): the resonator's parameters, coefficient and mute bit are written, its delay state and everything
else, DIRTY included, kept; a bad voice is refused before a bad mode. A word with a zero field set is refused (R60).
The record of a refusal is the model's own field (R157, log entry 6). -/
def Obligations.ResSetWritesOneResonator : Prop :=
  ∀ (s : State) (v m : Byte) (f a d : F32),
    encode (.resSet v m f a d) = [0x30#8 ++ v ++ m ++ 0x00#8, f, a, d] ∧ ZeroFieldsChecked 0x30 0x000000FF#32 3 ∧
      (v.toNat < s.nv → m.toNat < s.maxModes →
        exec (.resSet v m f a d) s = .next { s with
          voices := s.voices.modify v.toNat fun x => { x with
            res := x.res.modify m.toNat fun r => { r with
              freq := f, amp := a, decay := d
              play := flt C.zero f && flt f (fmul s.sr C.half)
              cr := fmul (pow32 0x3A83126F#32 (fdiv C.one (fmul d s.sr))) (cos32 (fdiv (fmul 0x40C90FDB#32 f) s.sr))
              ci := fmul (pow32 0x3A83126F#32 (fdiv C.one (fmul d s.sr))) (sin32 (fdiv (fmul 0x40C90FDB#32 f) s.sr)) } } }) ∧
      (s.nv ≤ v.toNat ∨ s.maxModes ≤ m.toNat →
        exec (.resSet v m f a d) s = .next { s with
          ill := true
          illInfo := some { reason := if s.nv ≤ v.toNat then .badVoice else .badModeIndex,
                            word := 0x30#8 ++ v ++ m ++ 0x00#8, operand := none } })

/-- RES_PING (R110, R113): the delay state becomes (amp, +0), of an inactive or muted resonator too, and nothing else
changes. A word with a zero field set is refused (R60). The record of a refusal is the model's own field (R157, log
entry 6). -/
def Obligations.ResPingSetsTheDelayState : Prop :=
  ∀ (s : State) (v m : Byte),
    encode (.resPing v m) = [0x31#8 ++ v ++ m ++ 0x00#8] ∧ ZeroFieldsChecked 0x31 0x000000FF#32 0 ∧
      (v.toNat < s.nv → m.toNat < s.maxModes →
        exec (.resPing v m) s = .next { s with
          voices := s.voices.modify v.toNat fun x => { x with
            res := x.res.modify m.toNat fun r => { r with yr := r.amp, yi := 0x00000000#32 } } }) ∧
      (s.nv ≤ v.toNat ∨ s.maxModes ≤ m.toNat →
        exec (.resPing v m) s = .next { s with
          ill := true
          illInfo := some { reason := if s.nv ≤ v.toNat then .badVoice else .badModeIndex,
                            word := 0x31#8 ++ v ++ m ++ 0x00#8, operand := none } })

/-- BIQ_DESIGN (R101, R104): type, frequency, shape and coefficients of one band are written, its history and everything
else kept; the refusals come in the order voice, band, type. The coefficients are the raw ones of R93 to R100, written out
for each of the seven types, divided by a0. The record of a refusal is the model's own field (R157, log entry 6). -/
def Obligations.BiqDesignWritesOneBand : Prop :=
  ∀ (s : State) (v b t : Byte) (fc q : F32),
    encode (.biqDesign v b t fc q) = [0x40#8 ++ v ++ b ++ t, fc, q] ∧
      (v.toNat < s.nv → b.toNat < 4 →
        ∀ row ∈ [(0#8, BiquadType.lpf), (1#8, .hpf), (2#8, .apf), (3#8, .bpfCsg), (4#8, .bpfCpg), (5#8, .notch),
            (6#8, .stkNotch)], t = row.1 →
          let des : Band → Band := fun n => { n with filter := { n.filter with
            bt := row.2, fc := fc, q := q, co := (bqRaw s.sr row.2 fc q).normalized } }
          exec (.biqDesign v b t fc q) s = .next { s with
              voices := s.voices.modify v.toNat fun x => { x with
                fmt :=
                  { b0 := if b = 0#8 then des x.fmt.b0 else x.fmt.b0
                    b1 := if b = 1#8 then des x.fmt.b1 else x.fmt.b1
                    b2 := if b = 2#8 then des x.fmt.b2 else x.fmt.b2
                    b3 := if b = 3#8 then des x.fmt.b3 else x.fmt.b3 } } }) ∧
      (s.nv ≤ v.toNat ∨ 4 ≤ b.toNat ∨ 7 ≤ t.toNat →
        exec (.biqDesign v b t fc q) s = .next { s with
          ill := true
          illInfo := some { reason := if s.nv ≤ v.toNat then .badVoice else if 4 ≤ b.toNat then .badBand else .badBiquadType,
                            word := 0x40#8 ++ v ++ b ++ t, operand := none } }) ∧
      ∀ w0 cs sn aq abw z1 g : F32,
        w0 = fdiv (fmul 0x40C90FDB#32 fc) s.sr → cs = cos32 w0 → sn = sin32 w0 → aq = fdiv sn (fmul 0x40000000#32 q) →
        abw = fmul sn (sinh32 (fdiv (fmul (fmul (fmul 0x3F317218#32 0x3F000000#32) q) w0) sn)) →
        z1 = fmul (fmul 0xC0000000#32 q) cs →
        g = fdiv 0x3F800000#32
          (fadd (if flt 0x00000000#32 z1 = true then fadd 0x3F800000#32 z1 else fsub 0x3F800000#32 z1) (fmul q q)) →
        (bqRaw s.sr .stkNotch fc q).normalized =
            { nb0 := fdiv g 0x3F800000#32, nb1 := fdiv (fmul z1 g) 0x3F800000#32,
              nb2 := fdiv (fmul (fmul q q) g) 0x3F800000#32,
              na1 := fdiv 0x00000000#32 0x3F800000#32, na2 := fdiv 0x00000000#32 0x3F800000#32 } ∧
          ∀ row ∈ [
            (BiquadType.lpf, fdiv (fsub 0x3F800000#32 cs) 0x40000000#32, fsub 0x3F800000#32 cs,
              fdiv (fsub 0x3F800000#32 cs) 0x40000000#32, aq),
            (.hpf, fdiv (fadd 0x3F800000#32 cs) 0x40000000#32, fadd 0x3F800000#32 cs ^^^ 0x80000000#32,
              fdiv (fadd 0x3F800000#32 cs) 0x40000000#32, aq),
            (.apf, fsub 0x3F800000#32 aq, fmul 0xC0000000#32 cs, fadd 0x3F800000#32 aq, aq),
            (.bpfCsg, fdiv sn 0x40000000#32, 0x00000000#32, fdiv sn 0x40000000#32 ^^^ 0x80000000#32, aq),
            (.bpfCpg, abw, 0x00000000#32, abw ^^^ 0x80000000#32, abw),
            (.notch, 0x3F800000#32, fmul 0xC0000000#32 cs, 0x3F800000#32, abw)],
            (bqRaw s.sr row.1 fc q).normalized =
              { nb0 := fdiv row.2.1 (fadd 0x3F800000#32 row.2.2.2.2)
                nb1 := fdiv row.2.2.1 (fadd 0x3F800000#32 row.2.2.2.2)
                nb2 := fdiv row.2.2.2.1 (fadd 0x3F800000#32 row.2.2.2.2)
                na1 := fdiv (fmul 0xC0000000#32 cs) (fadd 0x3F800000#32 row.2.2.2.2)
                na2 := fdiv (fsub 0x3F800000#32 row.2.2.2.2) (fadd 0x3F800000#32 row.2.2.2.2) }

/-- FORMANT_GAIN (R134, R137), on one voice and on all: the band's gain in dB and linear gain are written and nothing
else changes. A word with a zero field set is refused (R60). The record of a refusal is the model's own field (R157,
log entry 6). -/
def Obligations.FormantGainWritesOneBand : Prop :=
  ∀ (s : State) (v b : Byte) (gain : F32),
    let set : Band → Band := fun n =>
      { n with gainDb := gain, gainLin := pow32 0x41200000#32 (fdiv gain 0x41A00000#32) }
    let g : Voice → Voice := fun x => { x with
      fmt :=
        { b0 := if b = 0#8 then set x.fmt.b0 else x.fmt.b0
          b1 := if b = 1#8 then set x.fmt.b1 else x.fmt.b1
          b2 := if b = 2#8 then set x.fmt.b2 else x.fmt.b2
          b3 := if b = 3#8 then set x.fmt.b3 else x.fmt.b3 } }
    encode (.formantGain v b gain) = [0x41#8 ++ v ++ b ++ 0x00#8, gain] ∧ ZeroFieldsChecked 0x41 0x000000FF#32 1 ∧
      (b.toNat < 4 →
        (v ≠ 0xFF#8 → v.toNat < s.nv →
          exec (.formantGain v b gain) s = .next { s with voices := s.voices.modify v.toNat g }) ∧
        exec (.formantGain 0xFF#8 b gain) s = .next { s with voices := s.voices.map g }) ∧
      (¬((v.toNat < s.nv ∨ v = 0xFF#8) ∧ b.toNat < 4) →
        exec (.formantGain v b gain) s = .next { s with
          ill := true
          illInfo := some { reason := if v.toNat < s.nv ∨ v = 0xFF#8 then .badBand else .badVoice,
                            word := 0x41#8 ++ v ++ b ++ 0x00#8, operand := none } })

/-! ## Controller commands (R139 to R144) -/

/-- KEY_DOWN (R139, R140, R142): the first free slot after the cursor takes the note, becomes the cursor, and its
voice is started at the note's equal-tempered frequency; without a free slot nothing changes; a note of 128 or more is
refused. A word with a zero field set is refused (R60). The record of a refusal is the model's own field (R157, log
entry 6). -/
def Obligations.KeyDownTakesTheFirstFreeSlot : Prop :=
  ∀ (s : State) (n : Byte) (vel : F32),
    encode (.keyDown n vel) = [0x50#8 ++ 0x00#8 ++ 0x00#8 ++ n, vel] ∧ ZeroFieldsChecked 0x50 0x00FFFF00#32 1 ∧
      (n.toNat < 128 →
        (∀ d, 1 ≤ d → d ≤ s.nv → s.slots[(s.last + d) % s.nv]? = some none →
          (∀ j, 1 ≤ j → j < d → s.slots[(s.last + j) % s.nv]? ≠ some none) →
          exec (.keyDown n vel) s = .next { s with
            slots := s.slots.set ((s.last + d) % s.nv) (some (n.setWidth 7))
            last := (s.last + d) % s.nv
            voices := s.voices.modify ((s.last + d) % s.nv)
              (Voice.noteOn s.sr
                (fmul 0x43DC0000#32 (pow32 0x40000000#32 (fdiv (fsub (f32OfNat n.toNat) 0x428A0000#32) 0x41400000#32))) vel) }) ∧
        ((∀ d, 1 ≤ d → d ≤ s.nv → s.slots[(s.last + d) % s.nv]? ≠ some none) → exec (.keyDown n vel) s = .next s)) ∧
      (128 ≤ n.toNat →
        exec (.keyDown n vel) s = .next { s with
          ill := true
          illInfo := some { reason := .badNote, word := 0x50#8 ++ 0x00#8 ++ 0x00#8 ++ n, operand := none } })

/-- KEY_UP (R141, R143): the lowest slot holding the note is freed and its voice released, the cursor kept; an
unmatched note changes nothing; a note of 128 or more is refused. A word with a zero field set is refused (R60). The
record of a refusal is the model's own field (R157, log entry 6). -/
def Obligations.KeyUpFreesTheLowestSlot : Prop :=
  ∀ (s : State) (n : Byte),
    encode (.keyUp n) = [0x51#8 ++ 0x00#8 ++ 0x00#8 ++ n] ∧ ZeroFieldsChecked 0x51 0x00FFFF00#32 0 ∧
      (n.toNat < 128 →
        (∀ k : Nat, s.slots[k]? = some (some (n.setWidth 7)) → (∀ j, j < k → s.slots[j]? ≠ some (some (n.setWidth 7))) →
          exec (.keyUp n) s = .next { s with
            slots := s.slots.set k none
            voices := s.voices.modify k Voice.noteOff }) ∧
        ((∀ k : Nat, s.slots[k]? ≠ some (some (n.setWidth 7))) → exec (.keyUp n) s = .next s)) ∧
      (128 ≤ n.toNat →
        exec (.keyUp n) s = .next { s with
          ill := true
          illInfo := some { reason := .badNote, word := 0x51#8 ++ 0x00#8 ++ 0x00#8 ++ n, operand := none } })

/-- READ_SLOT (R144): a free slot emits the zero word, an occupied one bit 31 and the note; nothing else changes, and
a refused one, a zero field set or the slot absent, emits nothing. The record of a refusal is the model's own field
(R157, log entry 6). -/
def Obligations.ReadSlotReportsTheNote : Prop :=
  ∀ (s : State) (v : Byte),
    encode (.readSlot v) = [0x52#8 ++ v ++ 0x00#8 ++ 0x00#8] ∧ ZeroFieldsChecked 0x52 0x0000FFFF#32 0 ∧
      (v.toNat < s.nv →
        (s.slots[v.toNat]? = some none → exec (.readSlot v) s = .next { s with out := s.out ++ [0x00000000#32] }) ∧
        (∀ n : BitVec 7, s.slots[v.toNat]? = some (some n) →
          ∃ w : Word, w.toNat = 0x80000000 + n.toNat ∧ exec (.readSlot v) s = .next { s with out := s.out ++ [w] })) ∧
      (s.nv ≤ v.toNat →
        exec (.readSlot v) s = .next { s with
          ill := true
          illInfo := some { reason := .badVoice, word := 0x52#8 ++ v ++ 0x00#8 ++ 0x00#8, operand := none } })
end

