-- ==== Sys2Proof/Laws/Decode.lean ====
section
/-! SUPPORT. The small laws of the encoding, once: the fields of a command word (R55), the opcode map (R58), and the framing
of a command by its opcode (R59, R63). -/

namespace Sys2Proof

/-! ## Fields -/

/-- The command word as a number. -/
theorem packFields_toNat (o v i a : Byte) :
    (packFields o v i a).toNat = ((o.toNat * 256 + v.toNat) * 256 + i.toNat) * 256 + a.toNat := by
  have h : ∀ {m n : Nat} (x : BitVec m) (y : BitVec n), (x ++ y).toNat = x.toNat * 2 ^ n + y.toNat := fun x y => by
    rw [BitVec.toNat_append, Nat.shiftLeft_eq, ← Nat.shiftLeft_eq, ← Nat.shiftLeft_add_eq_or_of_lt y.isLt]
  show (((o ++ v : BitVec (8 + 8)) ++ i : BitVec (8 + 8 + 8)) ++ a : BitVec (8 + 8 + 8 + 8)).toNat = _
  rw [h, h, h]; norm_num

@[simp] theorem opcField_packFields (o v i a : Byte) : opcField (packFields o v i a) = o := by
  apply BitVec.eq_of_toNat_eq
  simp only [opcField, BitVec.extractLsb'_toNat, packFields_toNat, Nat.shiftRight_eq_div_pow]
  omega

@[simp] theorem vField_packFields (o v i a : Byte) : vField (packFields o v i a) = v := by
  apply BitVec.eq_of_toNat_eq
  simp only [vField, BitVec.extractLsb'_toNat, packFields_toNat, Nat.shiftRight_eq_div_pow]
  omega

@[simp] theorem iField_packFields (o v i a : Byte) : iField (packFields o v i a) = i := by
  apply BitVec.eq_of_toNat_eq
  simp only [iField, BitVec.extractLsb'_toNat, packFields_toNat, Nat.shiftRight_eq_div_pow]
  omega

@[simp] theorem aField_packFields (o v i a : Byte) : aField (packFields o v i a) = a := by
  apply BitVec.eq_of_toNat_eq
  simp only [aField, BitVec.extractLsb'_toNat, packFields_toNat, Nat.shiftRight_eq_div_pow]
  omega

/-- A command word is its four fields. -/
theorem packFields_fields (w : Word) : packFields (opcField w) (vField w) (iField w) (aField w) = w := by
  apply BitVec.eq_of_toNat_eq
  simp only [opcField, vField, iField, aField, BitVec.extractLsb'_toNat, packFields_toNat, Nat.shiftRight_eq_div_pow]
  omega

/-! ## Bytes -/

@[simp] theorem bytesOfWords_nil : bytesOfWords [] = [] := rfl

@[simp] theorem bytesOfWords_append (us vs : List Word) : bytesOfWords (us ++ vs) = bytesOfWords us ++ bytesOfWords vs := by
  simp [bytesOfWords]

/-- A word is its four bytes. -/
theorem wordOfBytes_extract (w : Word) :
    wordOfBytes (w.extractLsb' 0 8) (w.extractLsb' 8 8) (w.extractLsb' 16 8) (w.extractLsb' 24 8) = w :=
  packFields_fields w

/-- What a byte transport takes apart it puts together again (R44, R45). -/
theorem wordsOfBytes_bytesOfWords (ws : List Word) : wordsOfBytes (bytesOfWords ws) = ws := by
  induction ws with
  | nil => rfl
  | cons w ws ih => exact congrArg₂ List.cons (wordOfBytes_extract w) ih

/-! ## The opcode map -/

@[simp] theorem Opcode.ofByte_code (o : Opcode) : Opcode.ofByte o.code = some o := by
  cases o <;> rfl

/-- The map assigns one byte to an opcode. -/
theorem Opcode.code_of_ofByte {b : Byte} {o : Opcode} (h : Opcode.ofByte b = some o) : o.code = b := by
  revert h
  revert b
  cases o <;> decide

/-! ## Framing -/

theorem Instr.operands_length (i : Instr) : i.operands.length = i.opcode.operandCount := by
  cases i <;> rfl

theorem Instr.opcField_commandWord (i : Instr) : opcField i.commandWord = i.opcode.code :=
  opcField_packFields ..

theorem Instr.reservedClear_commandWord (i : Instr) : i.opcode.reservedClear i.commandWord = true := by
  cases i <;> simp [Opcode.reservedClear, Instr.commandWord, Instr.opcode, Instr.fields, Opcode.usesFields]

/-- A command is what its opcode reads from its own words. -/
theorem Instr.instr_commandWord (i : Instr) : i.opcode.instr i.commandWord i.operands = i := by
  cases i <;> simp [Opcode.instr, Instr.commandWord, Instr.opcode, Instr.fields, Instr.operands]

/-- What an opcode reads from a command word with its zero fields clear and its own number of operand words has exactly
those words as its encoding. -/
theorem Opcode.encode_instr {o : Opcode} {w : Word} {ops : List Word} (ho : o.code = opcField w)
    (hr : o.reservedClear w = true) (hn : ops.length = o.operandCount) : encode (o.instr w ops) = w :: ops := by
  have hw := packFields_fields w
  rw [← ho] at hw
  have h1 : ∀ l : List Word, l.length = 1 → [l[0]?.getD 0#32] = l := fun l h => by
    obtain ⟨a, rfl⟩ := List.length_eq_one_iff.mp h; rfl
  have h2 : ∀ l : List Word, l.length = 2 → [l[0]?.getD 0#32, l[1]?.getD 0#32] = l := fun l h => by
    obtain ⟨a, b, rfl⟩ := List.length_eq_two.mp h; rfl
  have h3 : ∀ l : List Word, l.length = 3 → [l[0]?.getD 0#32, l[1]?.getD 0#32, l[2]?.getD 0#32] = l := fun l h => by
    obtain ⟨a, b, c, rfl⟩ := List.length_eq_three.mp h; rfl
  cases o <;>
    simp only [Opcode.reservedClear, Opcode.usesFields, Bool.and_eq_true, Bool.or_eq_true, beq_iff_eq] at hr <;>
    simp only [Opcode.operandCount, List.length_eq_zero_iff] at hn <;>
    simp_all [encode, Opcode.instr, Instr.commandWord, Instr.opcode, Instr.fields, Instr.operands]

end Sys2Proof
end

