-- ==== Sys2Proof/Laws/Float32.lean ====
section
/-! SUPPORT. What rounding does, once: the nearest magnitude, ties to even (R12), and the small laws of the sign and
magnitude of a value, of comparisons (R13) and of `frac` and `clamp01` (R17). -/

namespace Sys2Proof.Machine

/-! ## Magnitudes -/

theorem unitsOfMag_code (e k : Nat) (hk : k ≤ 0x1000000) (h : e = 0 ∨ 0x800000 ≤ k) :
    unitsOfMag (e * 0x800000 + k) = k * 2 ^ e := by
  unfold unitsOfMag
  rcases Nat.lt_or_ge k 0x800000 with hlt | hge
  · obtain rfl : e = 0 := by omega
    have h1 : (0 * 0x800000 + k) / 0x800000 = 0 := by omega
    have h2 : (0 * 0x800000 + k) % 0x800000 = k := by omega
    rw [if_pos h1, h2]; simp
  · rcases Nat.lt_or_ge k 0x1000000 with hlt' | hge'
    · have h1 : (e * 0x800000 + k) / 0x800000 = e + 1 := by omega
      have h2 : (e * 0x800000 + k) % 0x800000 = k - 0x800000 := by omega
      rw [h1, h2, if_neg (by omega), show 0x800000 + (k - 0x800000) = k by omega, Nat.add_sub_cancel]
    · obtain rfl : k = 0x1000000 := by omega
      have h1 : (e * 0x800000 + 0x1000000) / 0x800000 = e + 2 := by omega
      have h2 : (e * 0x800000 + 0x1000000) % 0x800000 = 0 := by omega
      rw [h1, h2, if_neg (by omega), show e + 2 - 1 = e + 1 from rfl, Nat.pow_succ]
      ring

/-- Every magnitude is a significand and an exponent as `roundCode` writes them. -/
theorem mag_code (m : Nat) :
    ∃ e k, m = e * 0x800000 + k ∧ k < 0x1000000 ∧ (e = 0 ∨ 0x800000 ≤ k) := by
  rcases Nat.lt_or_ge m 0x800000 with h | h
  · exact ⟨0, m, by omega, by omega, .inl rfl⟩
  · exact ⟨m / 0x800000 - 1, 0x800000 + m % 0x800000, by omega, by omega, .inr (by omega)⟩

theorem unitsOfMag_strictMono : StrictMono unitsOfMag := by
  refine strictMono_nat_of_lt_succ fun m => ?_
  obtain ⟨e, k, rfl, hk, h⟩ := mag_code m
  have hp : 0 < 2 ^ e := Nat.two_pow_pos e
  rw [unitsOfMag_code e k (by omega) h, Nat.add_assoc, unitsOfMag_code e (k + 1) (by omega) (by omega)]
  exact Nat.mul_lt_mul_of_pos_right (Nat.lt_succ_self k) hp

/-! ## Rounding -/

/-- What `roundCode` computes: the two neighbouring significands around `n / d`, and which of them it takes. -/
theorem roundCode_cases (n d : Nat) (hd : 0 < d) :
    ∃ e m, (e = 0 ∨ 0x800000 ≤ m) ∧ m < 0x1000000 ∧
      m * (d * 2 ^ e) ≤ n ∧ n < (m + 1) * (d * 2 ^ e) ∧
      ((roundCode n d = e * 0x800000 + m ∧
          (2 * (n - m * (d * 2 ^ e)) < d * 2 ^ e ∨ 2 * (n - m * (d * 2 ^ e)) = d * 2 ^ e ∧ m % 2 = 0)) ∨
        (roundCode n d = e * 0x800000 + (m + 1) ∧
          (d * 2 ^ e < 2 * (n - m * (d * 2 ^ e)) ∨ 2 * (n - m * (d * 2 ^ e)) = d * 2 ^ e ∧ m % 2 = 1))) := by
  obtain ⟨q, hq⟩ : ∃ q, q = n / d := ⟨_, rfl⟩
  obtain ⟨e, he⟩ : ∃ e, e = if q < 0x1000000 then 0 else Nat.log2 q - 23 := ⟨_, rfl⟩
  obtain ⟨u, hu⟩ : ∃ u, u = d * 2 ^ e := ⟨_, rfl⟩
  obtain ⟨m, hm⟩ : ∃ m, m = n / u := ⟨_, rfl⟩
  have hup : 0 < u := hu ▸ Nat.mul_pos hd (Nat.two_pow_pos e)
  have hmq : m = q / 2 ^ e := by rw [hm, hu, hq, Nat.div_div_eq_div_mul]
  have hdm : m * u + n % u = n := by rw [hm, Nat.mul_comm]; exact Nat.div_add_mod n u
  have hr : n % u < u := Nat.mod_lt _ hup
  have hnr : n - m * u = n % u := by omega
  have hrange : (e = 0 ∨ 0x800000 ≤ m) ∧ m < 0x1000000 := by
    by_cases hlt : q < 0x1000000
    · have : e = 0 := by rw [he, if_pos hlt]
      rw [hmq, this]; simp; exact hlt
    · have hq0 : q ≠ 0 := by omega
      have hlog : 24 ≤ Nat.log2 q := by
        rw [Nat.le_log2 hq0]; norm_num; omega
      have hee : e = Nat.log2 q - 23 := by rw [he, if_neg hlt]
      have h1 : 2 ^ Nat.log2 q ≤ q := Nat.log2_self_le hq0
      have h2 : q < 2 ^ (Nat.log2 q + 1) := Nat.lt_log2_self
      have e1 : 2 ^ Nat.log2 q = 0x800000 * 2 ^ e := by
        rw [hee, show (0x800000 : Nat) = 2 ^ 23 from rfl, ← Nat.pow_add]; congr 1; omega
      have e2 : 2 ^ (Nat.log2 q + 1) = 0x1000000 * 2 ^ e := by
        rw [Nat.pow_succ, e1]; ring
      refine ⟨.inr ?_, ?_⟩
      · rw [hmq, Nat.le_div_iff_mul_le (Nat.two_pow_pos e), ← e1]; exact h1
      · rw [hmq, Nat.div_lt_iff_lt_mul (Nat.two_pow_pos e), ← e2]; exact h2
  have hcode : roundCode n d =
      e * 0x800000 + (if u < 2 * (n % u) ∨ (2 * (n % u) = u ∧ m % 2 = 1) then m + 1 else m) := by
    subst hm hu he hq; rfl
  refine ⟨e, m, hrange.1, hrange.2, ?_⟩
  rw [← hu]
  refine ⟨by omega, ?_, ?_⟩
  · rw [Nat.add_mul]; omega
  · rw [hnr, hcode]
    by_cases hc : u < 2 * (n % u) ∨ (2 * (n % u) = u ∧ m % 2 = 1)
    · rw [if_pos hc]; exact .inr ⟨rfl, hc⟩
    · rw [if_neg hc]; refine .inl ⟨rfl, ?_⟩
      have := Nat.mod_two_eq_zero_or_one m
      omega

/-- Rounding to nearest, ties to even, without a bound on the exponent (R12): no magnitude lies nearer to `n / d` units
than the one `roundCode` answers, and where another lies as near, the answer is the even one. -/
theorem roundCode_nearest (n d : Nat) (hd : 0 < d) (c : Nat) :
    |(unitsOfMag (roundCode n d) * d : Int) - n| ≤ |(unitsOfMag c * d : Int) - n| ∧
      (|(unitsOfMag (roundCode n d) * d : Int) - n| = |(unitsOfMag c * d : Int) - n| →
        c = roundCode n d ∨ roundCode n d % 2 = 0) := by
  obtain ⟨e, m, hem, hm, hlo, hhi, hcase⟩ := roundCode_cases n d hd
  set u := d * 2 ^ e with hu
  have hV : unitsOfMag (e * 0x800000 + m) * d = m * u := by
    rw [unitsOfMag_code e m (by omega) hem, hu]; ring
  have hV' : unitsOfMag (e * 0x800000 + (m + 1)) * d = (m + 1) * u := by
    rw [unitsOfMag_code e (m + 1) (by omega) (by omega), hu]; ring
  have hsucc : (m + 1) * u = m * u + u := by ring
  have hmono := unitsOfMag_strictMono
  have hbelow : c < e * 0x800000 + m → unitsOfMag c * d < m * u := fun h => by
    rw [← hV]; exact Nat.mul_lt_mul_of_pos_right (hmono h) hd
  have habove : e * 0x800000 + (m + 1) < c → (m + 1) * u < unitsOfMag c * d := fun h => by
    rw [← hV']; exact Nat.mul_lt_mul_of_pos_right (hmono h) hd
  have hcs : c < e * 0x800000 + m ∨ c = e * 0x800000 + m ∨ c = e * 0x800000 + (m + 1) ∨
      e * 0x800000 + (m + 1) < c := by omega
  have hup : 0 < u := Nat.mul_pos hd (Nat.two_pow_pos e)
  zify at hV hV' hbelow habove hlo hhi hsucc
  have hsub : ((n - m * u : Nat) : Int) = (n : Int) - m * u := by
    rw [Nat.cast_sub (by exact_mod_cast hlo)]; push_cast; ring
  rcases hcase with ⟨hc, hr⟩ | ⟨hc, hr⟩
  · rw [hc, hV]
    have hr' : 2 * ((n : Int) - m * u) ≤ u := by rw [← hsub]; omega
    rw [abs_of_nonpos (by omega : (m : Int) * u - n ≤ 0)]
    rcases hcs with h | h | h | h
    · have hb := hbelow (by exact_mod_cast h)
      rw [abs_of_nonpos (by omega)]
      exact ⟨by omega, fun he => by omega⟩
    · subst h; rw [hV, abs_of_nonpos (by omega : (m : Int) * u - n ≤ 0)]; exact ⟨le_refl _, fun _ => .inl rfl⟩
    · subst h; rw [hV', abs_of_nonneg (by omega)]
      refine ⟨by omega, fun he => .inr ?_⟩
      have : 2 * ((n - m * u : Nat) : Int) = u := by rw [hsub]; omega
      have h2 : 2 * (n - m * u) = u := by exact_mod_cast this
      omega
    · have hb := habove (by exact_mod_cast h)
      rw [abs_of_nonneg (by omega)]
      exact ⟨by omega, fun he => by omega⟩
  · rw [hc, hV']
    have hr' : (u : Int) ≤ 2 * ((n : Int) - m * u) := by rw [← hsub]; omega
    rw [abs_of_nonneg (by omega : 0 ≤ ((m : Int) + 1) * u - n)]
    rcases hcs with h | h | h | h
    · have hb := hbelow (by exact_mod_cast h)
      rw [abs_of_nonpos (by omega)]
      exact ⟨by omega, fun he => by omega⟩
    · subst h; rw [hV, abs_of_nonpos (by omega)]
      refine ⟨by omega, fun he => .inr ?_⟩
      have : 2 * ((n - m * u : Nat) : Int) = u := by rw [hsub]; omega
      have h2 : 2 * (n - m * u) = u := by exact_mod_cast this
      omega
    · subst h; rw [hV', abs_of_nonneg (by omega)]; exact ⟨le_refl _, fun _ => .inl rfl⟩
    · have hb := habove (by exact_mod_cast h)
      rw [abs_of_nonneg (by omega)]
      exact ⟨by omega, fun he => by omega⟩

theorem unitsOfMag_zero : unitsOfMag 0 = 0 := by decide

theorem unitsOfMag_inj {a b : Nat} : unitsOfMag a = unitsOfMag b ↔ a = b := unitsOfMag_strictMono.injective.eq_iff

/-- A magnitude rounds to itself. -/
theorem roundCode_exact (c d : Nat) (hd : 0 < d) : roundCode (unitsOfMag c * d) d = c := by
  have h := (roundCode_nearest (unitsOfMag c * d) d hd c).1
  push_cast at h
  rw [sub_self, abs_zero] at h
  have h0 : (unitsOfMag (roundCode (unitsOfMag c * d) d) * d : Int) = unitsOfMag c * d := by
    have := abs_eq_zero.mp (le_antisymm h (abs_nonneg _)); omega
  have h1 : unitsOfMag (roundCode (unitsOfMag c * d) d) * d = unitsOfMag c * d := by exact_mod_cast h0
  exact unitsOfMag_inj.mp (Nat.eq_of_mul_eq_mul_right hd h1)

/-- Rounding is monotone. -/
theorem roundCode_mono {d : Nat} (hd : 0 < d) {a b : Nat} (hab : a ≤ b) : roundCode a d ≤ roundCode b d := by
  by_contra hlt
  have hlt : roundCode b d < roundCode a d := by omega
  have hu : unitsOfMag (roundCode b d) * d < unitsOfMag (roundCode a d) * d :=
    Nat.mul_lt_mul_of_pos_right (unitsOfMag_strictMono hlt) hd
  have h1 := (roundCode_nearest a d hd (roundCode b d)).1
  have h2 := (roundCode_nearest b d hd (roundCode a d)).1
  zify at hu hab
  have : (a : Int) = b := by
    rcases abs_cases ((unitsOfMag (roundCode a d) * d : Int) - a) with h | h <;>
      rcases abs_cases ((unitsOfMag (roundCode b d) * d : Int) - a) with h' | h' <;>
      rcases abs_cases ((unitsOfMag (roundCode a d) * d : Int) - b) with k | k <;>
      rcases abs_cases ((unitsOfMag (roundCode b d) * d : Int) - b) with k' | k' <;> omega
  rw [show a = b by exact_mod_cast this] at hlt
  exact lt_irrefl _ hlt

theorem roundCode_le {d : Nat} (hd : 0 < d) {a c : Nat} (h : a ≤ unitsOfMag c * d) : roundCode a d ≤ c := by
  have := roundCode_mono hd h
  rwa [roundCode_exact c d hd] at this

theorem le_roundCode {d : Nat} (hd : 0 < d) {a c : Nat} (h : unitsOfMag c * d ≤ a) : c ≤ roundCode a d := by
  have := roundCode_mono hd h
  rwa [roundCode_exact c d hd] at this

/-- Rounding passes the greatest finite magnitude exactly from half a step beyond it on. -/
theorem roundCode_overflow_iff {n d : Nat} (hd : 0 < d) :
    0x7F800000 ≤ roundCode n d ↔ 0x1FFFFFF * 2 ^ 252 * d ≤ n := by
  have hU : unitsOfMag 0x7F7FFFFF = 0xFFFFFF * 2 ^ 253 := by
    rw [show 0x7F7FFFFF = 253 * 0x800000 + 0xFFFFFF from rfl, unitsOfMag_code _ _ (by omega) (by omega)]
  have hU' : unitsOfMag 0x7F800000 = 0x1000000 * 2 ^ 253 := by
    rw [show 0x7F800000 = 253 * 0x800000 + 0x1000000 from rfl, unitsOfMag_code _ _ (by omega) (by omega)]
  obtain ⟨B, hB⟩ : ∃ B, B = 2 ^ 252 * d := ⟨_, rfl⟩
  have hBp : 0 < B := hB ▸ Nat.mul_pos (Nat.two_pow_pos _) hd
  have e1 : unitsOfMag 0x7F7FFFFF * d = 2 * (0xFFFFFF * B) := by rw [hU, hB]; ring
  have e2 : unitsOfMag 0x7F800000 * d = 2 * (0x1000000 * B) := by rw [hU', hB]; ring
  have e3 : 0x1FFFFFF * 2 ^ 252 * d = 0x1FFFFFF * B := by rw [hB]; ring
  have mid : roundCode (0x1FFFFFF * B) d = 0x7F800000 := by
    have lo : 0x7F7FFFFF ≤ roundCode (0x1FFFFFF * B) d := le_roundCode hd (by omega)
    have hi : roundCode (0x1FFFFFF * B) d ≤ 0x7F800000 := roundCode_le hd (by omega)
    rcases Nat.lt_or_ge (roundCode (0x1FFFFFF * B) d) 0x7F800000 with hlt | hge
    · have he : roundCode (0x1FFFFFF * B) d = 0x7F7FFFFF := by omega
      have h := (roundCode_nearest (0x1FFFFFF * B) d hd 0x7F800000).2
      zify at e1 e2
      rw [he, e1, e2] at h
      push_cast at h
      exfalso
      rcases h (by
        rw [abs_of_nonpos (by omega), abs_of_nonneg (by omega)]; ring) with h | h <;> omega
    · omega
  rw [e3]
  constructor
  · intro h
    by_contra hlt
    have hlt : n < 0x1FFFFFF * B := by omega
    have hle := roundCode_mono hd hlt.le
    rw [mid] at hle
    have h1 := (roundCode_nearest n d hd 0x7F7FFFFF).1
    zify at e1 e2 hlt
    rw [show roundCode n d = 0x7F800000 by omega, e1, e2] at h1
    rcases abs_cases (2 * (0x1000000 * (B : Int)) - n) with hh | hh <;>
      rcases abs_cases (2 * (0xFFFFFF * (B : Int)) - n) with k | k <;> omega
  · intro h
    have := roundCode_mono hd h
    rwa [mid] at this

/-! ## Sign and magnitude of a value -/

theorem magBits_lt (x : F32) : magBits x < 0x80000000 := Nat.mod_lt _ (by decide)

theorem signBit_eq (x : F32) : signBit x = decide (0x80000000 ≤ x.toNat) := by
  simp [signBit, BitVec.msb_eq_decide]

theorem toNat_eq (x : F32) : x.toNat = (if signBit x then 0x80000000 else 0) + magBits x := by
  have := x.isLt
  rw [signBit_eq, magBits]
  split <;> simp_all <;> omega

/-- A value is its sign and its magnitude bits. -/
theorem eq_of_sign_mag {x y : F32} (hs : signBit x = signBit y) (hm : magBits x = magBits y) : x = y := by
  apply BitVec.eq_of_toNat_eq
  rw [toNat_eq, toNat_eq y, hs, hm]

theorem withSign_toNat (neg : Bool) {m : Nat} (hm : m < 0x80000000) :
    (withSign neg m).toNat = (if neg then 0x80000000 else 0) + m := by
  unfold withSign
  cases neg <;> simp <;> omega

theorem signBit_withSign (neg : Bool) {m : Nat} (hm : m < 0x80000000) : signBit (withSign neg m) = neg := by
  rw [signBit_eq, withSign_toNat neg hm]
  cases neg
  · simp; omega
  · simp

theorem magBits_withSign (neg : Bool) {m : Nat} (hm : m < 0x80000000) : magBits (withSign neg m) = m := by
  rw [magBits, withSign_toNat neg hm]
  cases neg <;> simp <;> omega

@[simp] theorem signBit_fneg (x : F32) : signBit (fneg x) = !signBit x := by
  unfold fneg signBit
  rw [BitVec.msb_xor]
  cases x.msb <;> rfl

@[simp] theorem magBits_fneg (x : F32) : magBits (fneg x) = magBits x := by
  have h : ∀ y : F32, magBits y = (y.setWidth 31).toNat := fun y => by simp [magBits]
  unfold fneg
  rw [h, h, BitVec.setWidth_xor]
  simp

theorem units_eq (x : F32) : units x = (if signBit x then -1 else 1) * (unitsOfMag (magBits x) : Int) := by
  unfold units magUnits
  split <;> simp

theorem magUnits_eq (x : F32) : magUnits x = unitsOfMag (magBits x) := by unfold magUnits; rfl

theorem natAbs_units (x : F32) : (units x).natAbs = magUnits x := by
  unfold units; split <;> simp

@[simp] theorem units_fneg (x : F32) : units (fneg x) = -units x := by
  rw [units_eq, units_eq, signBit_fneg, magBits_fneg]
  cases signBit x <;> simp

/-! ## Rounded results -/

theorem roundMag_le (n d : Nat) : roundMag n d ≤ 0x7F800000 := by unfold roundMag; omega

theorem roundMag_le_roundCode (n d : Nat) : roundMag n d ≤ roundCode n d := by
  unfold roundMag; exact Nat.min_le_left _ _

theorem roundMag_mono {d : Nat} (hd : 0 < d) {a b : Nat} (h : a ≤ b) : roundMag a d ≤ roundMag b d := by
  unfold roundMag; exact min_le_min_right _ (roundCode_mono hd h)

@[simp] theorem roundMag_zero : roundMag 0 1 = 0 := by unfold roundMag; decide

theorem roundMag_lt (n d : Nat) : roundMag n d < 0x80000000 := by have := roundMag_le n d; omega

/-- A rounded result is not NaN. -/
theorem isNaN_rounded (neg : Bool) (n d : Nat) : isNaN (withSign neg (roundMag n d)) = false := by
  have := roundMag_le n d
  simp [isNaN, magBits_withSign neg (roundMag_lt n d)]; omega

theorem isFinite_rounded (neg : Bool) {n d : Nat} (hd : 0 < d) :
    isFinite (withSign neg (roundMag n d)) = decide (n < 0x1FFFFFF * 2 ^ 252 * d) := by
  have h := roundCode_overflow_iff (n := n) hd
  rw [isFinite, magBits_withSign neg (roundMag_lt n d)]
  unfold roundMag
  rw [decide_eq_decide]
  omega

/-- The value of a finite rounded result. -/
theorem units_rounded (neg : Bool) {n d : Nat} (hf : isFinite (withSign neg (roundMag n d)) = true) :
    units (withSign neg (roundMag n d)) = (if neg then -1 else 1) * (unitsOfMag (roundCode n d) : Int) ∧
      (withSign neg (roundMag n d)).toNat % 2 = roundCode n d % 2 := by
  rw [isFinite, magBits_withSign neg (roundMag_lt n d), decide_eq_true_eq] at hf
  have h : roundMag n d = roundCode n d := by
    unfold roundMag at hf ⊢; omega
  rw [units_eq, signBit_withSign neg (roundMag_lt n d), magBits_withSign neg (roundMag_lt n d), h]
  refine ⟨rfl, ?_⟩
  rw [← h, withSign_toNat neg (roundMag_lt n d), h]
  cases neg
  · simp
  · simp; omega

/-! ## The classes of values -/

theorem isFinite_iff (x : F32) : isFinite x = true ↔ isNaN x = false ∧ isInf x = false := by
  simp [isFinite, isNaN, isInf]; omega

theorem isNaN_of_isFinite {x : F32} (h : isFinite x = true) : isNaN x = false := ((isFinite_iff x).mp h).1

theorem isInf_of_isFinite {x : F32} (h : isFinite x = true) : isInf x = false := ((isFinite_iff x).mp h).2

@[simp] theorem isNaN_fneg (x : F32) : isNaN (fneg x) = isNaN x := by simp [isNaN]

@[simp] theorem isFinite_fneg (x : F32) : isFinite (fneg x) = isFinite x := by simp [isFinite]

theorem unitsOfMag_eq_zero (m : Nat) : unitsOfMag m = 0 ↔ m = 0 :=
  ⟨fun h => unitsOfMag_inj.mp (h.trans unitsOfMag_zero.symm), fun h => h ▸ unitsOfMag_zero⟩

theorem isZero_iff (x : F32) : isZero x = true ↔ units x = 0 := by
  have h := unitsOfMag_eq_zero (magBits x)
  rw [units_eq]
  simp only [isZero, beq_iff_eq]
  rw [← h]
  split <;> omega

/-! ## Order -/

/-- The order of R13 is the order of the exact values. -/
theorem orderKey_lt_iff (x y : F32) : orderKey x < orderKey y ↔ units x < units y := by
  have hm := unitsOfMag_strictMono.lt_iff_lt (a := magBits x) (b := magBits y)
  have hm' := unitsOfMag_strictMono.lt_iff_lt (a := magBits y) (b := magBits x)
  have zx := unitsOfMag_eq_zero (magBits x)
  have zy := unitsOfMag_eq_zero (magBits y)
  rw [units_eq, units_eq, orderKey, orderKey]
  split <;> split <;> omega

theorem orderKey_le_iff (x y : F32) : orderKey x ≤ orderKey y ↔ units x ≤ units y := by
  rw [← not_lt, ← not_lt, orderKey_lt_iff]

theorem flt_iff (x y : F32) : flt x y = true ↔ isNaN x = false ∧ isNaN y = false ∧ orderKey x < orderKey y := by
  unfold flt; simp [and_assoc]

theorem fle_iff (x y : F32) : fle x y = true ↔ isNaN x = false ∧ isNaN y = false ∧ orderKey x ≤ orderKey y := by
  unfold fle; simp [and_assoc]

theorem fge_iff (x y : F32) : fge x y = true ↔ isNaN x = false ∧ isNaN y = false ∧ orderKey y ≤ orderKey x := by
  unfold fge; rw [fle_iff]; tauto

/-! ## Sums of finite values -/

theorem fadd_finite {x y : F32} (hx : isFinite x = true) (hy : isFinite y = true) :
    fadd x y =
      if units x + units y = 0 then withSign (signBit x && signBit y) 0
      else withSign (decide (units x + units y < 0)) (roundMag (units x + units y).natAbs 1) := by
  unfold fadd
  simp [isNaN_of_isFinite hx, isNaN_of_isFinite hy, isInf_of_isFinite hx, isInf_of_isFinite hy]

theorem fadd_NaN {x y : F32} (h : isNaN x = true ∨ isNaN y = true) : fadd x y = qnan := by
  unfold fadd; simp [h]

/-- The sum of two finite values is not NaN, and its place in the order is that of the exact sum rounded. -/
theorem fadd_order {x y : F32} (hx : isFinite x = true) (hy : isFinite y = true) :
    isNaN (fadd x y) = false ∧
      orderKey (fadd x y) =
        (if units x + units y < 0 then -1 else 1) * (roundMag (units x + units y).natAbs 1 : Int) := by
  rw [fadd_finite hx hy]
  split
  · rename_i h
    have h0 : (0 : Nat) < 0x80000000 := by decide
    have hr : roundMag 0 1 = 0 := by unfold roundMag; decide
    rw [h]
    cases hs : (signBit x && signBit y) <;>
      simp [isNaN, orderKey, signBit_withSign _ h0, magBits_withSign _ h0, hr]
  · refine ⟨isNaN_rounded _ _ _, ?_⟩
    rw [orderKey, signBit_withSign _ (roundMag_lt _ _), magBits_withSign _ (roundMag_lt _ _)]
    by_cases h : units x + units y < 0 <;> simp [h]

/-! ## frac and clamp01 -/

theorem clamp01_unit (x : F32) : fle C.zero (clamp01 x) = true ∧ fle (clamp01 x) C.one = true := by
  unfold clamp01
  split
  · constructor <;> decide +kernel
  · split
    · rename_i h
      simp only [Bool.and_eq_true, flt_iff] at h
      simp only [fle_iff]
      exact ⟨⟨h.1.1, h.1.2.1, h.1.2.2.le⟩, ⟨h.2.1, h.2.2.1, h.2.2.2.le⟩⟩
    · constructor <;> decide +kernel

end Sys2Proof.Machine
end

