-- ==== Sys2Proof/Laws/State.lean ====
section
/-! SUPPORT. One lemma per field per update of the state, of a voice and of each unit, true by rfl and tagged @[simp], so
that no later proof unfolds a record update. -/

namespace Sys2Proof.Machine

/-! ## State -/

@[simp] theorem State.receive_sr (ws : List Word) (s : State) : (s.receive ws).sr = s.sr := rfl
@[simp] theorem State.receive_ill (ws : List Word) (s : State) : (s.receive ws).ill = s.ill := rfl
@[simp] theorem State.receive_slots (ws : List Word) (s : State) : (s.receive ws).slots = s.slots := rfl
@[simp] theorem State.receive_last (ws : List Word) (s : State) : (s.receive ws).last = s.last := rfl
@[simp] theorem State.receive_voices (ws : List Word) (s : State) : (s.receive ws).voices = s.voices := rfl
@[simp] theorem State.receive_cmd (ws : List Word) (s : State) : (s.receive ws).cmd = s.cmd ++ ws := rfl
@[simp] theorem State.receive_out (ws : List Word) (s : State) : (s.receive ws).out = s.out := rfl
@[simp] theorem State.receive_draws (ws : List Word) (s : State) : (s.receive ws).draws = s.draws := rfl
@[simp] theorem State.receive_illInfo (ws : List Word) (s : State) : (s.receive ws).illInfo = s.illInfo := rfl

@[simp] theorem State.emit_sr (w : Word) (s : State) : (s.emit w).sr = s.sr := rfl
@[simp] theorem State.emit_ill (w : Word) (s : State) : (s.emit w).ill = s.ill := rfl
@[simp] theorem State.emit_slots (w : Word) (s : State) : (s.emit w).slots = s.slots := rfl
@[simp] theorem State.emit_last (w : Word) (s : State) : (s.emit w).last = s.last := rfl
@[simp] theorem State.emit_voices (w : Word) (s : State) : (s.emit w).voices = s.voices := rfl
@[simp] theorem State.emit_cmd (w : Word) (s : State) : (s.emit w).cmd = s.cmd := rfl
@[simp] theorem State.emit_out (w : Word) (s : State) : (s.emit w).out = s.out ++ [w] := rfl
@[simp] theorem State.emit_draws (w : Word) (s : State) : (s.emit w).draws = s.draws := rfl
@[simp] theorem State.emit_illInfo (w : Word) (s : State) : (s.emit w).illInfo = s.illInfo := rfl

@[simp] theorem State.raiseIll_sr (info : IllInfo) (s : State) : (s.raiseIll info).sr = s.sr := rfl
@[simp] theorem State.raiseIll_ill (info : IllInfo) (s : State) : (s.raiseIll info).ill = true := rfl
@[simp] theorem State.raiseIll_slots (info : IllInfo) (s : State) : (s.raiseIll info).slots = s.slots := rfl
@[simp] theorem State.raiseIll_last (info : IllInfo) (s : State) : (s.raiseIll info).last = s.last := rfl
@[simp] theorem State.raiseIll_voices (info : IllInfo) (s : State) : (s.raiseIll info).voices = s.voices := rfl
@[simp] theorem State.raiseIll_cmd (info : IllInfo) (s : State) : (s.raiseIll info).cmd = s.cmd := rfl
@[simp] theorem State.raiseIll_out (info : IllInfo) (s : State) : (s.raiseIll info).out = s.out := rfl
@[simp] theorem State.raiseIll_draws (info : IllInfo) (s : State) : (s.raiseIll info).draws = s.draws := rfl
@[simp] theorem State.raiseIll_illInfo (info : IllInfo) (s : State) : (s.raiseIll info).illInfo = some info := rfl

@[simp] theorem State.onVoice_sr (v : Nat) (f : Voice → Voice) (s : State) : (s.onVoice v f).sr = s.sr := rfl
@[simp] theorem State.onVoice_ill (v : Nat) (f : Voice → Voice) (s : State) : (s.onVoice v f).ill = s.ill := rfl
@[simp] theorem State.onVoice_slots (v : Nat) (f : Voice → Voice) (s : State) : (s.onVoice v f).slots = s.slots := rfl
@[simp] theorem State.onVoice_last (v : Nat) (f : Voice → Voice) (s : State) : (s.onVoice v f).last = s.last := rfl
@[simp] theorem State.onVoice_voices (v : Nat) (f : Voice → Voice) (s : State) :
    (s.onVoice v f).voices =
      s.voices.modify v f := rfl
@[simp] theorem State.onVoice_cmd (v : Nat) (f : Voice → Voice) (s : State) : (s.onVoice v f).cmd = s.cmd := rfl
@[simp] theorem State.onVoice_out (v : Nat) (f : Voice → Voice) (s : State) : (s.onVoice v f).out = s.out := rfl
@[simp] theorem State.onVoice_draws (v : Nat) (f : Voice → Voice) (s : State) : (s.onVoice v f).draws = s.draws := rfl
@[simp] theorem State.onVoice_illInfo (v : Nat) (f : Voice → Voice) (s : State) :
    (s.onVoice v f).illInfo =
      s.illInfo := rfl

@[simp] theorem State.onAll_sr (f : Voice → Voice) (s : State) : (s.onAll f).sr = s.sr := rfl
@[simp] theorem State.onAll_ill (f : Voice → Voice) (s : State) : (s.onAll f).ill = s.ill := rfl
@[simp] theorem State.onAll_slots (f : Voice → Voice) (s : State) : (s.onAll f).slots = s.slots := rfl
@[simp] theorem State.onAll_last (f : Voice → Voice) (s : State) : (s.onAll f).last = s.last := rfl
@[simp] theorem State.onAll_voices (f : Voice → Voice) (s : State) : (s.onAll f).voices = s.voices.map f := rfl
@[simp] theorem State.onAll_cmd (f : Voice → Voice) (s : State) : (s.onAll f).cmd = s.cmd := rfl
@[simp] theorem State.onAll_out (f : Voice → Voice) (s : State) : (s.onAll f).out = s.out := rfl
@[simp] theorem State.onAll_draws (f : Voice → Voice) (s : State) : (s.onAll f).draws = s.draws := rfl
@[simp] theorem State.onAll_illInfo (f : Voice → Voice) (s : State) : (s.onAll f).illInfo = s.illInfo := rfl

@[simp] theorem State.resetAll_sr (s : State) : (s.resetAll).sr = C.n48000 := rfl
@[simp] theorem State.resetAll_ill (s : State) : (s.resetAll).ill = false := rfl
@[simp] theorem State.resetAll_slots (s : State) : (s.resetAll).slots = List.replicate s.nv none := rfl
@[simp] theorem State.resetAll_last (s : State) : (s.resetAll).last = s.nv - 1 := rfl
@[simp] theorem State.resetAll_voices (s : State) :
    (s.resetAll).voices =
      List.replicate s.nv (Voice.atReset C.n48000 s.maxModes) := rfl
@[simp] theorem State.resetAll_cmd (s : State) : (s.resetAll).cmd = s.cmd := rfl
@[simp] theorem State.resetAll_out (s : State) : (s.resetAll).out = s.out := rfl
@[simp] theorem State.resetAll_draws (s : State) : (s.resetAll).draws = s.draws := rfl
@[simp] theorem State.resetAll_illInfo (s : State) : (s.resetAll).illInfo = none := rfl

@[simp] theorem State.withFetchWord_sr (nbits w : Nat) (s : State) : (s.withFetchWord nbits w).sr = s.sr := rfl
@[simp] theorem State.withFetchWord_ill (nbits w : Nat) (s : State) : (s.withFetchWord nbits w).ill = s.ill := rfl
@[simp] theorem State.withFetchWord_slots (nbits w : Nat) (s : State) :
    (s.withFetchWord nbits w).slots =
      s.slots := rfl
@[simp] theorem State.withFetchWord_last (nbits w : Nat) (s : State) : (s.withFetchWord nbits w).last = s.last := rfl
@[simp] theorem State.withFetchWord_voices (nbits w : Nat) (s : State) :
    (s.withFetchWord nbits w).voices =
      s.voices := rfl
@[simp] theorem State.withFetchWord_cmd (nbits w : Nat) (s : State) :
    (s.withFetchWord nbits w).cmd =
      tableWords nbits w := rfl
@[simp] theorem State.withFetchWord_out (nbits w : Nat) (s : State) : (s.withFetchWord nbits w).out = s.out := rfl
@[simp] theorem State.withFetchWord_draws (nbits w : Nat) (s : State) :
    (s.withFetchWord nbits w).draws =
      s.draws := rfl
@[simp] theorem State.withFetchWord_illInfo (nbits w : Nat) (s : State) :
    (s.withFetchWord nbits w).illInfo =
      s.illInfo := rfl

/-! ## Voice -/

@[simp] theorem Voice.chirpSetFreq_p (sr f : F32) (x : Voice) : (x.chirpSetFreq sr f).p = x.p := rfl
@[simp] theorem Voice.chirpSetFreq_noteFreq (sr f : F32) (x : Voice) :
    (x.chirpSetFreq sr f).noteFreq =
      x.noteFreq := rfl
@[simp] theorem Voice.chirpSetFreq_velocity (sr f : F32) (x : Voice) :
    (x.chirpSetFreq sr f).velocity =
      x.velocity := rfl
@[simp] theorem Voice.chirpSetFreq_res (sr f : F32) (x : Voice) : (x.chirpSetFreq sr f).res = x.res := rfl
@[simp] theorem Voice.chirpSetFreq_exc (sr f : F32) (x : Voice) : (x.chirpSetFreq sr f).exc = x.exc := rfl
@[simp] theorem Voice.chirpSetFreq_chCtl (sr f : F32) (x : Voice) :
    (x.chirpSetFreq sr f).chCtl =
      x.chCtl.setFreq sr f := rfl
@[simp] theorem Voice.chirpSetFreq_chGen (sr f : F32) (x : Voice) : (x.chirpSetFreq sr f).chGen = x.chGen := rfl
@[simp] theorem Voice.chirpSetFreq_dirty (sr f : F32) (x : Voice) : (x.chirpSetFreq sr f).dirty = x.dirty := rfl
@[simp] theorem Voice.chirpSetFreq_modesWritten (sr f : F32) (x : Voice) :
    (x.chirpSetFreq sr f).modesWritten = x.modesWritten := rfl
@[simp] theorem Voice.chirpSetFreq_env (sr f : F32) (x : Voice) : (x.chirpSetFreq sr f).env = x.env := rfl
@[simp] theorem Voice.chirpSetFreq_fmt (sr f : F32) (x : Voice) : (x.chirpSetFreq sr f).fmt = x.fmt := rfl

@[simp] theorem Voice.chirpSetSampleRate_p (sr : F32) (x : Voice) : (x.chirpSetSampleRate sr).p = x.p := rfl
@[simp] theorem Voice.chirpSetSampleRate_noteFreq (sr : F32) (x : Voice) :
    (x.chirpSetSampleRate sr).noteFreq =
      x.noteFreq := rfl
@[simp] theorem Voice.chirpSetSampleRate_velocity (sr : F32) (x : Voice) :
    (x.chirpSetSampleRate sr).velocity =
      x.velocity := rfl
@[simp] theorem Voice.chirpSetSampleRate_res (sr : F32) (x : Voice) : (x.chirpSetSampleRate sr).res = x.res := rfl
@[simp] theorem Voice.chirpSetSampleRate_exc (sr : F32) (x : Voice) : (x.chirpSetSampleRate sr).exc = x.exc := rfl
@[simp] theorem Voice.chirpSetSampleRate_chCtl (sr : F32) (x : Voice) :
    (x.chirpSetSampleRate sr).chCtl =
      x.chCtl.setSampleRate sr := rfl
@[simp] theorem Voice.chirpSetSampleRate_chGen (sr : F32) (x : Voice) :
    (x.chirpSetSampleRate sr).chGen =
      x.chGen.setSampleRate sr := rfl
@[simp] theorem Voice.chirpSetSampleRate_dirty (sr : F32) (x : Voice) :
    (x.chirpSetSampleRate sr).dirty =
      x.dirty := rfl
@[simp] theorem Voice.chirpSetSampleRate_modesWritten (sr : F32) (x : Voice) :
    (x.chirpSetSampleRate sr).modesWritten = x.modesWritten := rfl
@[simp] theorem Voice.chirpSetSampleRate_env (sr : F32) (x : Voice) : (x.chirpSetSampleRate sr).env = x.env := rfl
@[simp] theorem Voice.chirpSetSampleRate_fmt (sr : F32) (x : Voice) : (x.chirpSetSampleRate sr).fmt = x.fmt := rfl

@[simp] theorem Voice.setAttack_p (sr t : F32) (x : Voice) : (x.setAttack sr t).p = { x.p with attack := t } := rfl
@[simp] theorem Voice.setAttack_noteFreq (sr t : F32) (x : Voice) : (x.setAttack sr t).noteFreq = x.noteFreq := rfl
@[simp] theorem Voice.setAttack_velocity (sr t : F32) (x : Voice) : (x.setAttack sr t).velocity = x.velocity := rfl
@[simp] theorem Voice.setAttack_res (sr t : F32) (x : Voice) : (x.setAttack sr t).res = x.res := rfl
@[simp] theorem Voice.setAttack_exc (sr t : F32) (x : Voice) : (x.setAttack sr t).exc = x.exc := rfl
@[simp] theorem Voice.setAttack_chCtl (sr t : F32) (x : Voice) : (x.setAttack sr t).chCtl = x.chCtl := rfl
@[simp] theorem Voice.setAttack_chGen (sr t : F32) (x : Voice) : (x.setAttack sr t).chGen = x.chGen := rfl
@[simp] theorem Voice.setAttack_dirty (sr t : F32) (x : Voice) : (x.setAttack sr t).dirty = x.dirty := rfl
@[simp] theorem Voice.setAttack_modesWritten (sr t : F32) (x : Voice) :
    (x.setAttack sr t).modesWritten = x.modesWritten := rfl
@[simp] theorem Voice.setAttack_env (sr t : F32) (x : Voice) :
    (x.setAttack sr t).env =
      { x.env with ainc := envIncrement sr t } := rfl
@[simp] theorem Voice.setAttack_fmt (sr t : F32) (x : Voice) : (x.setAttack sr t).fmt = x.fmt := rfl

@[simp] theorem Voice.setRelease_p (sr t : F32) (x : Voice) : (x.setRelease sr t).p = { x.p with release := t } := rfl
@[simp] theorem Voice.setRelease_noteFreq (sr t : F32) (x : Voice) : (x.setRelease sr t).noteFreq = x.noteFreq := rfl
@[simp] theorem Voice.setRelease_velocity (sr t : F32) (x : Voice) : (x.setRelease sr t).velocity = x.velocity := rfl
@[simp] theorem Voice.setRelease_res (sr t : F32) (x : Voice) : (x.setRelease sr t).res = x.res := rfl
@[simp] theorem Voice.setRelease_exc (sr t : F32) (x : Voice) : (x.setRelease sr t).exc = x.exc := rfl
@[simp] theorem Voice.setRelease_chCtl (sr t : F32) (x : Voice) : (x.setRelease sr t).chCtl = x.chCtl := rfl
@[simp] theorem Voice.setRelease_chGen (sr t : F32) (x : Voice) : (x.setRelease sr t).chGen = x.chGen := rfl
@[simp] theorem Voice.setRelease_dirty (sr t : F32) (x : Voice) : (x.setRelease sr t).dirty = x.dirty := rfl
@[simp] theorem Voice.setRelease_modesWritten (sr t : F32) (x : Voice) :
    (x.setRelease sr t).modesWritten = x.modesWritten := rfl
@[simp] theorem Voice.setRelease_env (sr t : F32) (x : Voice) :
    (x.setRelease sr t).env =
      { x.env with rinc := envIncrement sr t } := rfl
@[simp] theorem Voice.setRelease_fmt (sr t : F32) (x : Voice) : (x.setRelease sr t).fmt = x.fmt := rfl

@[simp] theorem Voice.envSetSampleRate_p (sr : F32) (x : Voice) : (x.envSetSampleRate sr).p = x.p := rfl
@[simp] theorem Voice.envSetSampleRate_noteFreq (sr : F32) (x : Voice) :
    (x.envSetSampleRate sr).noteFreq =
      x.noteFreq := rfl
@[simp] theorem Voice.envSetSampleRate_velocity (sr : F32) (x : Voice) :
    (x.envSetSampleRate sr).velocity =
      x.velocity := rfl
@[simp] theorem Voice.envSetSampleRate_res (sr : F32) (x : Voice) : (x.envSetSampleRate sr).res = x.res := rfl
@[simp] theorem Voice.envSetSampleRate_exc (sr : F32) (x : Voice) : (x.envSetSampleRate sr).exc = x.exc := rfl
@[simp] theorem Voice.envSetSampleRate_chCtl (sr : F32) (x : Voice) : (x.envSetSampleRate sr).chCtl = x.chCtl := rfl
@[simp] theorem Voice.envSetSampleRate_chGen (sr : F32) (x : Voice) : (x.envSetSampleRate sr).chGen = x.chGen := rfl
@[simp] theorem Voice.envSetSampleRate_dirty (sr : F32) (x : Voice) : (x.envSetSampleRate sr).dirty = x.dirty := rfl
@[simp] theorem Voice.envSetSampleRate_modesWritten (sr : F32) (x : Voice) :
    (x.envSetSampleRate sr).modesWritten = x.modesWritten := rfl
@[simp] theorem Voice.envSetSampleRate_env (sr : F32) (x : Voice) :
    (x.envSetSampleRate sr).env =
      { x.env with ainc := envIncrement sr x.p.attack, rinc := envIncrement sr x.p.release } := rfl
@[simp] theorem Voice.envSetSampleRate_fmt (sr : F32) (x : Voice) : (x.envSetSampleRate sr).fmt = x.fmt := rfl

@[simp] theorem Voice.setVowel_p (sr : F32) (x : Voice) : (x.setVowel sr).p = x.p := rfl
@[simp] theorem Voice.setVowel_noteFreq (sr : F32) (x : Voice) : (x.setVowel sr).noteFreq = x.noteFreq := rfl
@[simp] theorem Voice.setVowel_velocity (sr : F32) (x : Voice) : (x.setVowel sr).velocity = x.velocity := rfl
@[simp] theorem Voice.setVowel_res (sr : F32) (x : Voice) : (x.setVowel sr).res = x.res := rfl
@[simp] theorem Voice.setVowel_exc (sr : F32) (x : Voice) : (x.setVowel sr).exc = x.exc := rfl
@[simp] theorem Voice.setVowel_chCtl (sr : F32) (x : Voice) : (x.setVowel sr).chCtl = x.chCtl := rfl
@[simp] theorem Voice.setVowel_chGen (sr : F32) (x : Voice) : (x.setVowel sr).chGen = x.chGen := rfl
@[simp] theorem Voice.setVowel_dirty (sr : F32) (x : Voice) : (x.setVowel sr).dirty = x.dirty := rfl
@[simp] theorem Voice.setVowel_modesWritten (sr : F32) (x : Voice) :
    (x.setVowel sr).modesWritten = x.modesWritten := rfl
@[simp] theorem Voice.setVowel_env (sr : F32) (x : Voice) : (x.setVowel sr).env = x.env := rfl
@[simp] theorem Voice.setVowel_fmt (sr : F32) (x : Voice) :
    (x.setVowel sr).fmt =
      { b0 := x.fmt.b0.design sr .bpfCpg (formantF1 x.p) C.c0p1, b1 := x.fmt.b1.design sr .bpfCpg (formantF2 x.p) C.c0p1,
        b2 := x.fmt.b2.design sr .bpfCpg (formantF3 x.p) C.c0p1, b3 := x.fmt.b3.design sr .bpfCpg (formantF4 x.p) C.c0p1 } := rfl

@[simp] theorem Voice.setExciter_p (k : ExcKind) (x : Voice) : (x.setExciter k).p = { x.p with excKind := k } := rfl
@[simp] theorem Voice.setExciter_noteFreq (k : ExcKind) (x : Voice) : (x.setExciter k).noteFreq = x.noteFreq := rfl
@[simp] theorem Voice.setExciter_velocity (k : ExcKind) (x : Voice) : (x.setExciter k).velocity = x.velocity := rfl
@[simp] theorem Voice.setExciter_res (k : ExcKind) (x : Voice) : (x.setExciter k).res = x.res := rfl
@[simp] theorem Voice.setExciter_exc (k : ExcKind) (x : Voice) : (x.setExciter k).exc = x.exc := rfl
@[simp] theorem Voice.setExciter_chCtl (k : ExcKind) (x : Voice) : (x.setExciter k).chCtl = x.chCtl := rfl
@[simp] theorem Voice.setExciter_chGen (k : ExcKind) (x : Voice) : (x.setExciter k).chGen = x.chGen := rfl
@[simp] theorem Voice.setExciter_dirty (k : ExcKind) (x : Voice) : (x.setExciter k).dirty = x.dirty := rfl
@[simp] theorem Voice.setExciter_modesWritten (k : ExcKind) (x : Voice) :
    (x.setExciter k).modesWritten = x.modesWritten := rfl
@[simp] theorem Voice.setExciter_env (k : ExcKind) (x : Voice) :
    (x.setExciter k).env =
      if x.p.excKind = .noise ∧ k ≠ .noise then x.env.reset else x.env := rfl
@[simp] theorem Voice.setExciter_fmt (k : ExcKind) (x : Voice) : (x.setExciter k).fmt = x.fmt := rfl

@[simp] theorem Voice.update_p (sr : F32) (x : Voice) :
    (x.update sr).p = { x.p with modeCount := x.modesWritten } := rfl
@[simp] theorem Voice.update_noteFreq (sr : F32) (x : Voice) : (x.update sr).noteFreq = x.noteFreq := rfl
@[simp] theorem Voice.update_velocity (sr : F32) (x : Voice) : (x.update sr).velocity = x.velocity := rfl
@[simp] theorem Voice.update_res (sr : F32) (x : Voice) :
    (x.update sr).res =
      mapActive x.modesWritten.toNat
      (fun i r => r.setParams sr (x.modeFreq i) (x.modeDist i) (fmul (x.modeDist i) x.p.decay)) x.res := rfl
@[simp] theorem Voice.update_exc (sr : F32) (x : Voice) : (x.update sr).exc = x.exc.setFreq sr x.exciterFreq := rfl
@[simp] theorem Voice.update_chCtl (sr : F32) (x : Voice) :
    (x.update sr).chCtl =
      x.chCtl.setFreq sr x.exciterFreq := rfl
@[simp] theorem Voice.update_chGen (sr : F32) (x : Voice) : (x.update sr).chGen = x.chGen := rfl
@[simp] theorem Voice.update_dirty (sr : F32) (x : Voice) : (x.update sr).dirty = false := rfl
@[simp] theorem Voice.update_modesWritten (sr : F32) (x : Voice) : (x.update sr).modesWritten = x.modesWritten := rfl
@[simp] theorem Voice.update_env (sr : F32) (x : Voice) : (x.update sr).env = x.env := rfl
@[simp] theorem Voice.update_fmt (sr : F32) (x : Voice) : (x.update sr).fmt = x.fmt := rfl

@[simp] theorem Voice.pingActive_p (x : Voice) : (x.pingActive).p = x.p := rfl
@[simp] theorem Voice.pingActive_noteFreq (x : Voice) : (x.pingActive).noteFreq = x.noteFreq := rfl
@[simp] theorem Voice.pingActive_velocity (x : Voice) : (x.pingActive).velocity = x.velocity := rfl
@[simp] theorem Voice.pingActive_res (x : Voice) :
    (x.pingActive).res =
      mapActive x.p.modeCount.toNat (fun _ r => r.ping) x.res := rfl
@[simp] theorem Voice.pingActive_exc (x : Voice) : (x.pingActive).exc = x.exc := rfl
@[simp] theorem Voice.pingActive_chCtl (x : Voice) : (x.pingActive).chCtl = x.chCtl := rfl
@[simp] theorem Voice.pingActive_chGen (x : Voice) : (x.pingActive).chGen = x.chGen := rfl
@[simp] theorem Voice.pingActive_dirty (x : Voice) : (x.pingActive).dirty = x.dirty := rfl
@[simp] theorem Voice.pingActive_modesWritten (x : Voice) : (x.pingActive).modesWritten = x.modesWritten := rfl
@[simp] theorem Voice.pingActive_env (x : Voice) : (x.pingActive).env = x.env := rfl
@[simp] theorem Voice.pingActive_fmt (x : Voice) : (x.pingActive).fmt = x.fmt := rfl

@[simp] theorem Voice.envTrigger_p (x : Voice) : (x.envTrigger).p = x.p := rfl
@[simp] theorem Voice.envTrigger_noteFreq (x : Voice) : (x.envTrigger).noteFreq = x.noteFreq := rfl
@[simp] theorem Voice.envTrigger_velocity (x : Voice) : (x.envTrigger).velocity = x.velocity := rfl
@[simp] theorem Voice.envTrigger_res (x : Voice) : (x.envTrigger).res = x.res := rfl
@[simp] theorem Voice.envTrigger_exc (x : Voice) : (x.envTrigger).exc = x.exc := rfl
@[simp] theorem Voice.envTrigger_chCtl (x : Voice) : (x.envTrigger).chCtl = x.chCtl := rfl
@[simp] theorem Voice.envTrigger_chGen (x : Voice) : (x.envTrigger).chGen = x.chGen := rfl
@[simp] theorem Voice.envTrigger_dirty (x : Voice) : (x.envTrigger).dirty = x.dirty := rfl
@[simp] theorem Voice.envTrigger_modesWritten (x : Voice) : (x.envTrigger).modesWritten = x.modesWritten := rfl
@[simp] theorem Voice.envTrigger_env (x : Voice) : (x.envTrigger).env = x.env.trigger x.p.envType := rfl
@[simp] theorem Voice.envTrigger_fmt (x : Voice) : (x.envTrigger).fmt = x.fmt := rfl

@[simp] theorem Voice.envRelease_p (x : Voice) : (x.envRelease).p = x.p := rfl
@[simp] theorem Voice.envRelease_noteFreq (x : Voice) : (x.envRelease).noteFreq = x.noteFreq := rfl
@[simp] theorem Voice.envRelease_velocity (x : Voice) : (x.envRelease).velocity = x.velocity := rfl
@[simp] theorem Voice.envRelease_res (x : Voice) : (x.envRelease).res = x.res := rfl
@[simp] theorem Voice.envRelease_exc (x : Voice) : (x.envRelease).exc = x.exc := rfl
@[simp] theorem Voice.envRelease_chCtl (x : Voice) : (x.envRelease).chCtl = x.chCtl := rfl
@[simp] theorem Voice.envRelease_chGen (x : Voice) : (x.envRelease).chGen = x.chGen := rfl
@[simp] theorem Voice.envRelease_dirty (x : Voice) : (x.envRelease).dirty = x.dirty := rfl
@[simp] theorem Voice.envRelease_modesWritten (x : Voice) : (x.envRelease).modesWritten = x.modesWritten := rfl
@[simp] theorem Voice.envRelease_env (x : Voice) : (x.envRelease).env = x.env.releaseNote x.p.envType := rfl
@[simp] theorem Voice.envRelease_fmt (x : Voice) : (x.envRelease).fmt = x.fmt := rfl

@[simp] theorem Voice.onRes_p (m : Nat) (f : Resonator → Resonator) (x : Voice) : (x.onRes m f).p = x.p := rfl
@[simp] theorem Voice.onRes_noteFreq (m : Nat) (f : Resonator → Resonator) (x : Voice) :
    (x.onRes m f).noteFreq =
      x.noteFreq := rfl
@[simp] theorem Voice.onRes_velocity (m : Nat) (f : Resonator → Resonator) (x : Voice) :
    (x.onRes m f).velocity =
      x.velocity := rfl
@[simp] theorem Voice.onRes_res (m : Nat) (f : Resonator → Resonator) (x : Voice) :
    (x.onRes m f).res =
      x.res.modify m f := rfl
@[simp] theorem Voice.onRes_exc (m : Nat) (f : Resonator → Resonator) (x : Voice) : (x.onRes m f).exc = x.exc := rfl
@[simp] theorem Voice.onRes_chCtl (m : Nat) (f : Resonator → Resonator) (x : Voice) :
    (x.onRes m f).chCtl =
      x.chCtl := rfl
@[simp] theorem Voice.onRes_chGen (m : Nat) (f : Resonator → Resonator) (x : Voice) :
    (x.onRes m f).chGen =
      x.chGen := rfl
@[simp] theorem Voice.onRes_dirty (m : Nat) (f : Resonator → Resonator) (x : Voice) :
    (x.onRes m f).dirty =
      x.dirty := rfl
@[simp] theorem Voice.onRes_modesWritten (m : Nat) (f : Resonator → Resonator) (x : Voice) :
    (x.onRes m f).modesWritten = x.modesWritten := rfl
@[simp] theorem Voice.onRes_env (m : Nat) (f : Resonator → Resonator) (x : Voice) : (x.onRes m f).env = x.env := rfl
@[simp] theorem Voice.onRes_fmt (m : Nat) (f : Resonator → Resonator) (x : Voice) : (x.onRes m f).fmt = x.fmt := rfl

@[simp] theorem Voice.onBand_p (b : Nat) (f : Band → Band) (x : Voice) : (x.onBand b f).p = x.p := rfl
@[simp] theorem Voice.onBand_noteFreq (b : Nat) (f : Band → Band) (x : Voice) :
    (x.onBand b f).noteFreq =
      x.noteFreq := rfl
@[simp] theorem Voice.onBand_velocity (b : Nat) (f : Band → Band) (x : Voice) :
    (x.onBand b f).velocity =
      x.velocity := rfl
@[simp] theorem Voice.onBand_res (b : Nat) (f : Band → Band) (x : Voice) : (x.onBand b f).res = x.res := rfl
@[simp] theorem Voice.onBand_exc (b : Nat) (f : Band → Band) (x : Voice) : (x.onBand b f).exc = x.exc := rfl
@[simp] theorem Voice.onBand_chCtl (b : Nat) (f : Band → Band) (x : Voice) : (x.onBand b f).chCtl = x.chCtl := rfl
@[simp] theorem Voice.onBand_chGen (b : Nat) (f : Band → Band) (x : Voice) : (x.onBand b f).chGen = x.chGen := rfl
@[simp] theorem Voice.onBand_dirty (b : Nat) (f : Band → Band) (x : Voice) : (x.onBand b f).dirty = x.dirty := rfl
@[simp] theorem Voice.onBand_modesWritten (b : Nat) (f : Band → Band) (x : Voice) :
    (x.onBand b f).modesWritten = x.modesWritten := rfl
@[simp] theorem Voice.onBand_env (b : Nat) (f : Band → Band) (x : Voice) : (x.onBand b f).env = x.env := rfl
@[simp] theorem Voice.onBand_fmt (b : Nat) (f : Band → Band) (x : Voice) :
    (x.onBand b f).fmt =
      x.fmt.onBand b f := rfl

@[simp] theorem Voice.setSampleRate_p (sr : F32) (x : Voice) : (x.setSampleRate sr).p = x.p := rfl
@[simp] theorem Voice.setSampleRate_noteFreq (sr : F32) (x : Voice) :
    (x.setSampleRate sr).noteFreq =
      x.noteFreq := rfl
@[simp] theorem Voice.setSampleRate_velocity (sr : F32) (x : Voice) :
    (x.setSampleRate sr).velocity =
      x.velocity := rfl
@[simp] theorem Voice.setSampleRate_res (sr : F32) (x : Voice) :
    (x.setSampleRate sr).res =
      x.res.map (Resonator.setSampleRate sr) := rfl
@[simp] theorem Voice.setSampleRate_exc (sr : F32) (x : Voice) :
    (x.setSampleRate sr).exc =
      x.exc.setSampleRate sr := rfl
@[simp] theorem Voice.setSampleRate_chCtl (sr : F32) (x : Voice) :
    (x.setSampleRate sr).chCtl =
      x.chCtl.setSampleRate sr := rfl
@[simp] theorem Voice.setSampleRate_chGen (sr : F32) (x : Voice) :
    (x.setSampleRate sr).chGen =
      x.chGen.setSampleRate sr := rfl
@[simp] theorem Voice.setSampleRate_dirty (sr : F32) (x : Voice) : (x.setSampleRate sr).dirty = x.dirty := rfl
@[simp] theorem Voice.setSampleRate_modesWritten (sr : F32) (x : Voice) :
    (x.setSampleRate sr).modesWritten = x.modesWritten := rfl
@[simp] theorem Voice.setSampleRate_env (sr : F32) (x : Voice) :
    (x.setSampleRate sr).env =
      { x.env with ainc := envIncrement sr x.p.attack, rinc := envIncrement sr x.p.release } := rfl
@[simp] theorem Voice.setSampleRate_fmt (sr : F32) (x : Voice) :
    (x.setSampleRate sr).fmt =
      x.fmt.setSampleRate sr := rfl

/-! ## Resonator -/

@[simp] theorem Resonator.compute_freq (sr : F32) (r : Resonator) : (r.compute sr).freq = r.freq := rfl
@[simp] theorem Resonator.compute_amp (sr : F32) (r : Resonator) : (r.compute sr).amp = r.amp := rfl
@[simp] theorem Resonator.compute_decay (sr : F32) (r : Resonator) : (r.compute sr).decay = r.decay := rfl
@[simp] theorem Resonator.compute_cr (sr : F32) (r : Resonator) :
    (r.compute sr).cr =
      fmul (resDecayFactor sr r.decay) (cos32 (resAngle sr r.freq)) := rfl
@[simp] theorem Resonator.compute_ci (sr : F32) (r : Resonator) :
    (r.compute sr).ci =
      fmul (resDecayFactor sr r.decay) (sin32 (resAngle sr r.freq)) := rfl
@[simp] theorem Resonator.compute_yr (sr : F32) (r : Resonator) : (r.compute sr).yr = r.yr := rfl
@[simp] theorem Resonator.compute_yi (sr : F32) (r : Resonator) : (r.compute sr).yi = r.yi := rfl
@[simp] theorem Resonator.compute_play (sr : F32) (r : Resonator) : (r.compute sr).play = resPlay sr r.freq := rfl

@[simp] theorem Resonator.setParams_freq (sr f a d : F32) (r : Resonator) : (r.setParams sr f a d).freq = f := rfl
@[simp] theorem Resonator.setParams_amp (sr f a d : F32) (r : Resonator) : (r.setParams sr f a d).amp = a := rfl
@[simp] theorem Resonator.setParams_decay (sr f a d : F32) (r : Resonator) : (r.setParams sr f a d).decay = d := rfl
@[simp] theorem Resonator.setParams_cr (sr f a d : F32) (r : Resonator) :
    (r.setParams sr f a d).cr =
      fmul (resDecayFactor sr d) (cos32 (resAngle sr f)) := rfl
@[simp] theorem Resonator.setParams_ci (sr f a d : F32) (r : Resonator) :
    (r.setParams sr f a d).ci =
      fmul (resDecayFactor sr d) (sin32 (resAngle sr f)) := rfl
@[simp] theorem Resonator.setParams_yr (sr f a d : F32) (r : Resonator) : (r.setParams sr f a d).yr = r.yr := rfl
@[simp] theorem Resonator.setParams_yi (sr f a d : F32) (r : Resonator) : (r.setParams sr f a d).yi = r.yi := rfl
@[simp] theorem Resonator.setParams_play (sr f a d : F32) (r : Resonator) :
    (r.setParams sr f a d).play =
      resPlay sr f := rfl

@[simp] theorem Resonator.setSampleRate_freq (sr : F32) (r : Resonator) : (r.setSampleRate sr).freq = r.freq := rfl
@[simp] theorem Resonator.setSampleRate_amp (sr : F32) (r : Resonator) : (r.setSampleRate sr).amp = r.amp := rfl
@[simp] theorem Resonator.setSampleRate_decay (sr : F32) (r : Resonator) : (r.setSampleRate sr).decay = r.decay := rfl
@[simp] theorem Resonator.setSampleRate_cr (sr : F32) (r : Resonator) :
    (r.setSampleRate sr).cr =
      fmul (resDecayFactor sr r.decay) (cos32 (resAngle sr r.freq)) := rfl
@[simp] theorem Resonator.setSampleRate_ci (sr : F32) (r : Resonator) :
    (r.setSampleRate sr).ci =
      fmul (resDecayFactor sr r.decay) (sin32 (resAngle sr r.freq)) := rfl
@[simp] theorem Resonator.setSampleRate_yr (sr : F32) (r : Resonator) : (r.setSampleRate sr).yr = r.yr := rfl
@[simp] theorem Resonator.setSampleRate_yi (sr : F32) (r : Resonator) : (r.setSampleRate sr).yi = r.yi := rfl
@[simp] theorem Resonator.setSampleRate_play (sr : F32) (r : Resonator) :
    (r.setSampleRate sr).play =
      resPlay sr r.freq := rfl

@[simp] theorem Resonator.ping_freq (r : Resonator) : (r.ping).freq = r.freq := rfl
@[simp] theorem Resonator.ping_amp (r : Resonator) : (r.ping).amp = r.amp := rfl
@[simp] theorem Resonator.ping_decay (r : Resonator) : (r.ping).decay = r.decay := rfl
@[simp] theorem Resonator.ping_cr (r : Resonator) : (r.ping).cr = r.cr := rfl
@[simp] theorem Resonator.ping_ci (r : Resonator) : (r.ping).ci = r.ci := rfl
@[simp] theorem Resonator.ping_yr (r : Resonator) : (r.ping).yr = r.amp := rfl
@[simp] theorem Resonator.ping_yi (r : Resonator) : (r.ping).yi = C.zero := rfl
@[simp] theorem Resonator.ping_play (r : Resonator) : (r.ping).play = r.play := rfl

/-! ## Phasor -/

@[simp] theorem Phasor.setFreq_phase (sr f : F32) (ph : Phasor) : (ph.setFreq sr f).phase = ph.phase := rfl
@[simp] theorem Phasor.setFreq_freq (sr f : F32) (ph : Phasor) : (ph.setFreq sr f).freq = f := rfl
@[simp] theorem Phasor.setFreq_inc (sr f : F32) (ph : Phasor) : (ph.setFreq sr f).inc = fdiv f sr := rfl

@[simp] theorem Phasor.setSampleRate_phase (sr : F32) (ph : Phasor) : (ph.setSampleRate sr).phase = ph.phase := rfl
@[simp] theorem Phasor.setSampleRate_freq (sr : F32) (ph : Phasor) : (ph.setSampleRate sr).freq = ph.freq := rfl
@[simp] theorem Phasor.setSampleRate_inc (sr : F32) (ph : Phasor) : (ph.setSampleRate sr).inc = fdiv ph.freq sr := rfl

@[simp] theorem Phasor.nextPhase_eq (ph : Phasor) : ph.nextPhase = frac (fadd ph.phase ph.inc) := rfl
@[simp] theorem Phasor.tick_phase (ph : Phasor) :
    (ph.tick).phase = if ph.isInfinite && Config.infiniteFreqMakesNaN then qnan else ph.nextPhase := rfl
@[simp] theorem Phasor.tick_freq (ph : Phasor) : (ph.tick).freq = ph.freq := rfl
@[simp] theorem Phasor.tick_inc (ph : Phasor) : (ph.tick).inc = ph.inc := rfl

/-- A tick whose frequency or increment is not infinite is that of R68. -/
theorem Phasor.tick_of_not_infinite {ph : Phasor} (h : ph.isInfinite = false) :
    ph.tick = { ph with phase := ph.nextPhase } := by
  unfold Phasor.tick; rw [h]; rfl

/-- Every tick is that of R68 or, where frequency and increment are infinite, makes the phase NaN. -/
theorem Phasor.tick_cases (ph : Phasor) :
    ph.tick = { ph with phase := ph.nextPhase } ∨ (ph.isInfinite = true ∧ ph.tick = { ph with phase := qnan }) := by
  cases h : ph.isInfinite
  · exact .inl (Phasor.tick_of_not_infinite h)
  · cases hc : Config.infiniteFreqMakesNaN
    · left; unfold Phasor.tick; rw [h, hc]; rfl
    · right; refine ⟨rfl, ?_⟩; unfold Phasor.tick; rw [h, hc]; rfl

/-! ## Envelope -/

@[simp] theorem Envelope.on_state (e : Envelope) : (e.on).state = .attack := rfl
@[simp] theorem Envelope.on_value (e : Envelope) : (e.on).value = e.value := rfl
@[simp] theorem Envelope.on_ainc (e : Envelope) : (e.on).ainc = e.ainc := rfl
@[simp] theorem Envelope.on_rinc (e : Envelope) : (e.on).rinc = e.rinc := rfl

@[simp] theorem Envelope.off_state (e : Envelope) : (e.off).state = .release := rfl
@[simp] theorem Envelope.off_value (e : Envelope) : (e.off).value = e.value := rfl
@[simp] theorem Envelope.off_ainc (e : Envelope) : (e.off).ainc = e.ainc := rfl
@[simp] theorem Envelope.off_rinc (e : Envelope) : (e.off).rinc = e.rinc := rfl

@[simp] theorem Envelope.ping_state (e : Envelope) : (e.ping).state = .attack := rfl
@[simp] theorem Envelope.ping_value (e : Envelope) : (e.ping).value = e.value := rfl
@[simp] theorem Envelope.ping_ainc (e : Envelope) : (e.ping).ainc = e.ainc := rfl
@[simp] theorem Envelope.ping_rinc (e : Envelope) : (e.ping).rinc = e.rinc := rfl

@[simp] theorem Envelope.reset_state (e : Envelope) : (e.reset).state = .rest := rfl
@[simp] theorem Envelope.reset_value (e : Envelope) : (e.reset).value = C.zero := rfl
@[simp] theorem Envelope.reset_ainc (e : Envelope) : (e.reset).ainc = e.ainc := rfl
@[simp] theorem Envelope.reset_rinc (e : Envelope) : (e.reset).rinc = e.rinc := rfl

/-! ## Biquad -/

@[simp] theorem Biquad.design_bt (sr : F32) (t : BiquadType) (fc q : F32) (b : Biquad) :
    (b.design sr t fc q).bt =
      t := rfl
@[simp] theorem Biquad.design_fc (sr : F32) (t : BiquadType) (fc q : F32) (b : Biquad) :
    (b.design sr t fc q).fc =
      fc := rfl
@[simp] theorem Biquad.design_q (sr : F32) (t : BiquadType) (fc q : F32) (b : Biquad) :
    (b.design sr t fc q).q =
      q := rfl
@[simp] theorem Biquad.design_co (sr : F32) (t : BiquadType) (fc q : F32) (b : Biquad) :
    (b.design sr t fc q).co =
      (bqRaw sr t fc q).normalized := rfl
@[simp] theorem Biquad.design_x1 (sr : F32) (t : BiquadType) (fc q : F32) (b : Biquad) :
    (b.design sr t fc q).x1 =
      b.x1 := rfl
@[simp] theorem Biquad.design_x2 (sr : F32) (t : BiquadType) (fc q : F32) (b : Biquad) :
    (b.design sr t fc q).x2 =
      b.x2 := rfl
@[simp] theorem Biquad.design_y1 (sr : F32) (t : BiquadType) (fc q : F32) (b : Biquad) :
    (b.design sr t fc q).y1 =
      b.y1 := rfl
@[simp] theorem Biquad.design_y2 (sr : F32) (t : BiquadType) (fc q : F32) (b : Biquad) :
    (b.design sr t fc q).y2 =
      b.y2 := rfl

@[simp] theorem Biquad.setSampleRate_bt (sr : F32) (b : Biquad) : (b.setSampleRate sr).bt = b.bt := rfl
@[simp] theorem Biquad.setSampleRate_fc (sr : F32) (b : Biquad) : (b.setSampleRate sr).fc = b.fc := rfl
@[simp] theorem Biquad.setSampleRate_q (sr : F32) (b : Biquad) : (b.setSampleRate sr).q = b.q := rfl
@[simp] theorem Biquad.setSampleRate_co (sr : F32) (b : Biquad) :
    (b.setSampleRate sr).co =
      (bqRaw sr b.bt b.fc b.q).normalized := rfl
@[simp] theorem Biquad.setSampleRate_x1 (sr : F32) (b : Biquad) : (b.setSampleRate sr).x1 = b.x1 := rfl
@[simp] theorem Biquad.setSampleRate_x2 (sr : F32) (b : Biquad) : (b.setSampleRate sr).x2 = b.x2 := rfl
@[simp] theorem Biquad.setSampleRate_y1 (sr : F32) (b : Biquad) : (b.setSampleRate sr).y1 = b.y1 := rfl
@[simp] theorem Biquad.setSampleRate_y2 (sr : F32) (b : Biquad) : (b.setSampleRate sr).y2 = b.y2 := rfl

@[simp] theorem Biquad.tick_bt (x : F32) (b : Biquad) : (b.tick x).bt = b.bt := rfl
@[simp] theorem Biquad.tick_fc (x : F32) (b : Biquad) : (b.tick x).fc = b.fc := rfl
@[simp] theorem Biquad.tick_q (x : F32) (b : Biquad) : (b.tick x).q = b.q := rfl
@[simp] theorem Biquad.tick_co (x : F32) (b : Biquad) : (b.tick x).co = b.co := rfl
@[simp] theorem Biquad.tick_x1 (x : F32) (b : Biquad) : (b.tick x).x1 = x := rfl
@[simp] theorem Biquad.tick_x2 (x : F32) (b : Biquad) : (b.tick x).x2 = b.x1 := rfl
@[simp] theorem Biquad.tick_y1 (x : F32) (b : Biquad) : (b.tick x).y1 = b.output x := rfl
@[simp] theorem Biquad.tick_y2 (x : F32) (b : Biquad) : (b.tick x).y2 = b.y1 := rfl


/-! ## Band -/

@[simp] theorem Band.design_filter (sr : F32) (t : BiquadType) (fc q : F32) (b : Band) :
    (b.design sr t fc q).filter =
      b.filter.design sr t fc q := rfl
@[simp] theorem Band.design_gainDb (sr : F32) (t : BiquadType) (fc q : F32) (b : Band) :
    (b.design sr t fc q).gainDb =
      b.gainDb := rfl
@[simp] theorem Band.design_gainLin (sr : F32) (t : BiquadType) (fc q : F32) (b : Band) :
    (b.design sr t fc q).gainLin =
      b.gainLin := rfl

@[simp] theorem Band.setGain_filter (g : F32) (b : Band) : (b.setGain g).filter = b.filter := rfl
@[simp] theorem Band.setGain_gainDb (g : F32) (b : Band) : (b.setGain g).gainDb = g := rfl
@[simp] theorem Band.setGain_gainLin (g : F32) (b : Band) : (b.setGain g).gainLin = dbToGain g := rfl

@[simp] theorem Band.tick_filter (x : F32) (b : Band) : (b.tick x).filter = b.filter.tick x := rfl
@[simp] theorem Band.tick_gainDb (x : F32) (b : Band) : (b.tick x).gainDb = b.gainDb := rfl
@[simp] theorem Band.tick_gainLin (x : F32) (b : Band) : (b.tick x).gainLin = b.gainLin := rfl

@[simp] theorem Band.setSampleRate_filter (sr : F32) (b : Band) :
    (b.setSampleRate sr).filter =
      b.filter.setSampleRate sr := rfl
@[simp] theorem Band.setSampleRate_gainDb (sr : F32) (b : Band) : (b.setSampleRate sr).gainDb = b.gainDb := rfl
@[simp] theorem Band.setSampleRate_gainLin (sr : F32) (b : Band) : (b.setSampleRate sr).gainLin = b.gainLin := rfl

/-! ## Sizes -/

@[simp] theorem State.receive_nv (ws : List Word) (s : State) : (s.receive ws).nv = s.nv := rfl
@[simp] theorem State.emit_nv (w : Word) (s : State) : (s.emit w).nv = s.nv := rfl
@[simp] theorem State.raiseIll_nv (info : IllInfo) (s : State) : (s.raiseIll info).nv = s.nv := rfl
@[simp] theorem State.onVoice_nv (v : Nat) (f : Voice → Voice) (s : State) : (s.onVoice v f).nv = s.nv := by
  simp [State.nv]
@[simp] theorem State.onAll_nv (f : Voice → Voice) (s : State) : (s.onAll f).nv = s.nv := by
  simp [State.nv]
@[simp] theorem State.onTargets_nv (v : Byte) (f : Voice → Voice) (s : State) : (s.onTargets v f).nv = s.nv := by
  unfold State.onTargets; split <;> simp
@[simp] theorem State.resetAll_nv (s : State) : s.resetAll.nv = s.nv := by simp [State.nv]
@[simp] theorem State.receive_maxModes (ws : List Word) (s : State) : (s.receive ws).maxModes = s.maxModes := rfl
@[simp] theorem State.emit_maxModes (w : Word) (s : State) : (s.emit w).maxModes = s.maxModes := rfl
@[simp] theorem State.raiseIll_maxModes (info : IllInfo) (s : State) : (s.raiseIll info).maxModes = s.maxModes := rfl

/-! ## The targets of a broadcast field -/

@[simp] theorem State.onTargets_sr (v : Byte) (f : Voice → Voice) (s : State) : (s.onTargets v f).sr = s.sr := by
  unfold State.onTargets; split <;> rfl
@[simp] theorem State.onTargets_ill (v : Byte) (f : Voice → Voice) (s : State) : (s.onTargets v f).ill = s.ill := by
  unfold State.onTargets; split <;> rfl
@[simp] theorem State.onTargets_slots (v : Byte) (f : Voice → Voice) (s : State) : (s.onTargets v f).slots = s.slots := by
  unfold State.onTargets; split <;> rfl
@[simp] theorem State.onTargets_last (v : Byte) (f : Voice → Voice) (s : State) : (s.onTargets v f).last = s.last := by
  unfold State.onTargets; split <;> rfl
@[simp] theorem State.onTargets_voices (v : Byte) (f : Voice → Voice) (s : State) :
    (s.onTargets v f).voices = if v = 0xFF#8 then s.voices.map f else s.voices.modify v.toNat f := by
  unfold State.onTargets; split <;> rfl
@[simp] theorem State.onTargets_cmd (v : Byte) (f : Voice → Voice) (s : State) : (s.onTargets v f).cmd = s.cmd := by
  unfold State.onTargets; split <;> rfl
@[simp] theorem State.onTargets_out (v : Byte) (f : Voice → Voice) (s : State) : (s.onTargets v f).out = s.out := by
  unfold State.onTargets; split <;> rfl
@[simp] theorem State.onTargets_draws (v : Byte) (f : Voice → Voice) (s : State) : (s.onTargets v f).draws = s.draws := by
  unfold State.onTargets; split <;> rfl
@[simp] theorem State.onTargets_illInfo (v : Byte) (f : Voice → Voice) (s : State) : (s.onTargets v f).illInfo = s.illInfo := by
  unfold State.onTargets; split <;> rfl

/-! ## The reset state -/

@[simp] theorem State.resetWith_sr (nv mm : Nat) : (State.resetWith nv mm).sr = C.n48000 := rfl
@[simp] theorem State.resetWith_ill (nv mm : Nat) : (State.resetWith nv mm).ill = false := rfl
@[simp] theorem State.resetWith_slots (nv mm : Nat) : (State.resetWith nv mm).slots = List.replicate nv none := rfl
@[simp] theorem State.resetWith_last (nv mm : Nat) : (State.resetWith nv mm).last = nv - 1 := rfl
@[simp] theorem State.resetWith_voices (nv mm : Nat) : (State.resetWith nv mm).voices = List.replicate nv (Voice.atReset C.n48000 mm) := rfl
@[simp] theorem State.resetWith_cmd (nv mm : Nat) : (State.resetWith nv mm).cmd = [] := rfl
@[simp] theorem State.resetWith_out (nv mm : Nat) : (State.resetWith nv mm).out = [] := rfl
@[simp] theorem State.resetWith_draws (nv mm : Nat) : (State.resetWith nv mm).draws = 0 := rfl
@[simp] theorem State.resetWith_illInfo (nv mm : Nat) : (State.resetWith nv mm).illInfo = none := rfl

end Sys2Proof.Machine
end

