-- ==== Sys2Proof/Laws/Voice.lean ====
section
/-! SUPPORT. What the operations on one voice do, once: the active lanes of a bank (R35, R111), a parameter write (R125), note
on and off (R119, R120) and the sample (R123). -/

namespace Sys2Proof.Machine

/-! ## Lanes of a bank -/

@[simp] theorem mapActive_length (n : Nat) (f : Nat → Resonator → Resonator) (rs : List Resonator) :
    (mapActive n f rs).length = rs.length := by simp [mapActive]

@[simp] theorem mapActive_getElem? (n : Nat) (f : Nat → Resonator → Resonator) (rs : List Resonator) (m : Nat) :
    (mapActive n f rs)[m]? = (rs[m]?).map fun r => if m < n then f m r else r := by simp [mapActive]

theorem mem_mapActive {n : Nat} {f : Nat → Resonator → Resonator} {rs : List Resonator} {r' : Resonator}
    (h : r' ∈ mapActive n f rs) : ∃ r ∈ rs, r' = r ∨ ∃ m, r' = f m r := by
  obtain ⟨m, hm⟩ := List.mem_iff_getElem?.mp h
  rw [mapActive_getElem?] at hm
  cases hr : rs[m]? with
  | none => rw [hr] at hm; cases hm
  | some r =>
    rw [hr] at hm
    refine ⟨r, List.mem_of_getElem? hr, ?_⟩
    simp only [Option.map_some, Option.some.injEq] at hm
    split at hm
    · exact .inr ⟨m, hm.symm⟩
    · exact .inl hm.symm

/-- The resonators after a bank tick: the first `n` ticked on the one excitation, the others kept. -/
theorem bankTick_snd (x : F32) (n : Nat) (acc : F32) (rs : List Resonator) :
    (bankTick x n acc rs).2 = (rs.take n).map (fun r => (r.tick x).2) ++ rs.drop n := by
  induction rs generalizing n acc with
  | nil => cases n <;> rfl
  | cons r rs ih =>
    cases n with
    | zero => rfl
    | succ n => simp [bankTick, ih]

@[simp] theorem bankTick_length (x : F32) (n : Nat) (acc : F32) (rs : List Resonator) :
    (bankTick x n acc rs).2.length = rs.length := by
  rw [bankTick_snd]; simp; omega

/-- A resonator tick writes the delay state alone, and nothing of a muted resonator. -/
theorem Resonator.tick_snd (x : F32) (r : Resonator) :
    ∃ yr yi, (r.tick x).2 = { r with yr := yr, yi := yi } := by
  unfold Resonator.tick
  split
  · exact ⟨_, _, rfl⟩
  · exact ⟨r.yr, r.yi, rfl⟩

@[simp] theorem Resonator.tick_freq (x : F32) (r : Resonator) : (r.tick x).2.freq = r.freq := by
  obtain ⟨_, _, h⟩ := r.tick_snd x; rw [h]

@[simp] theorem Resonator.tick_play (x : F32) (r : Resonator) : (r.tick x).2.play = r.play := by
  obtain ⟨_, _, h⟩ := r.tick_snd x; rw [h]

@[simp] theorem Resonator.tick_amp (x : F32) (r : Resonator) : (r.tick x).2.amp = r.amp := by
  obtain ⟨_, _, h⟩ := r.tick_snd x; rw [h]

@[simp] theorem Resonator.tick_decay (x : F32) (r : Resonator) : (r.tick x).2.decay = r.decay := by
  obtain ⟨_, _, h⟩ := r.tick_snd x; rw [h]

@[simp] theorem Resonator.tick_cr (x : F32) (r : Resonator) : (r.tick x).2.cr = r.cr := by
  obtain ⟨_, _, h⟩ := r.tick_snd x; rw [h]

@[simp] theorem Resonator.tick_ci (x : F32) (r : Resonator) : (r.tick x).2.ci = r.ci := by
  obtain ⟨_, _, h⟩ := r.tick_snd x; rw [h]

/-! ## The formant filter -/

/-- A formant tick ticks each band once on some input, under either architecture. -/
theorem Formant.tick_snd (arch : FmtArch) (x : F32) (m : Formant) :
    ∃ i0 i1 i2 i3, (m.tick arch x).2 = { b0 := m.b0.tick i0, b1 := m.b1.tick i1, b2 := m.b2.tick i2, b3 := m.b3.tick i3 } := by
  cases arch
  · exact ⟨x, x, x, x, rfl⟩
  · exact ⟨_, _, _, _, rfl⟩

/-- Writing one band keeps the property of all four that the new band has. -/
theorem Formant.all_onBand {P : Band → Prop} {f : Band → Band} {m : Formant} (b : Nat) (h : m.All P)
    (hf : ∀ n, P n → P (f n)) : (m.onBand b f).All P := by
  obtain ⟨h0, h1, h2, h3⟩ := h
  unfold Formant.onBand
  split <;> refine ⟨?_, ?_, ?_, ?_⟩ <;> first | assumption | (apply hf; assumption)

/-! ## A parameter write -/

@[simp] theorem Voice.writeParam_res (sr : F32) (id : ParamId) (w : Word) (x : Voice) :
    (x.writeParam sr id w).res = x.res := by
  cases id <;> unfold Voice.writeParam Voice.modeWrite <;> (try split) <;> (try split) <;>
    simp [Voice.setEnvType, apply_ite Voice.res]

@[simp] theorem Voice.writeParam_exc (sr : F32) (id : ParamId) (w : Word) (x : Voice) :
    (x.writeParam sr id w).exc = x.exc := by
  cases id <;> unfold Voice.writeParam Voice.modeWrite <;> (try split) <;> (try split) <;>
    simp [Voice.setEnvType, apply_ite Voice.exc]

@[simp] theorem Voice.writeParam_chCtl (sr : F32) (id : ParamId) (w : Word) (x : Voice) :
    (x.writeParam sr id w).chCtl = x.chCtl := by
  cases id <;> unfold Voice.writeParam Voice.modeWrite <;> (try split) <;> (try split) <;>
    simp [Voice.setEnvType, apply_ite Voice.chCtl]

@[simp] theorem Voice.writeParam_chGen (sr : F32) (id : ParamId) (w : Word) (x : Voice) :
    (x.writeParam sr id w).chGen = x.chGen := by
  cases id <;> unfold Voice.writeParam Voice.modeWrite <;> (try split) <;> (try split) <;>
    simp [Voice.setEnvType, apply_ite Voice.chGen]

@[simp] theorem Voice.writeParam_noteFreq (sr : F32) (id : ParamId) (w : Word) (x : Voice) :
    (x.writeParam sr id w).noteFreq = x.noteFreq := by
  cases id <;> unfold Voice.writeParam Voice.modeWrite <;> (try split) <;> (try split) <;>
    simp [Voice.setEnvType, apply_ite Voice.noteFreq]

/-- A parameter write leaves `P.MODE_COUNT` alone: a MODE_COUNT waits for the coefficient update. -/
@[simp] theorem Voice.writeParam_p_modeCount (sr : F32) (id : ParamId) (w : Word) (x : Voice) :
    (x.writeParam sr id w).p.modeCount = x.p.modeCount := by
  cases id <;> unfold Voice.writeParam Voice.modeWrite <;> (try split) <;> (try split) <;>
    simp [Voice.setEnvType, apply_ite Voice.p, apply_ite Params.modeCount]

/-- A parameter write changes the written MODE_COUNT exactly where it is one of MODE_COUNT. -/
@[simp] theorem Voice.writeParam_modesWritten (sr : F32) (id : ParamId) (w : Word) (x : Voice) :
    (x.writeParam sr id w).modesWritten = if id = .modeCount then w else x.modesWritten := by
  cases id <;> unfold Voice.writeParam Voice.modeWrite <;> (try split) <;> (try split) <;>
    simp_all [Voice.setEnvType, apply_ite Voice.modesWritten]

@[simp] theorem Voice.writeParam_velocity (sr : F32) (id : ParamId) (w : Word) (x : Voice) :
    (x.writeParam sr id w).velocity = x.velocity := by
  cases id <;> unfold Voice.writeParam Voice.modeWrite <;> (try split) <;> (try split) <;>
    simp [Voice.setEnvType, apply_ite Voice.velocity]

/-! ## Note on and off -/

/-- What note on does beyond the coefficient update: the Impulse kind pings the active resonators, every other kind
sends the envelope to Attack. -/
theorem Voice.noteOn_eq (sr f vel : F32) (x : Voice) :
    x.noteOn sr f vel =
      let y := Voice.update sr { x with noteFreq := f, velocity := vel }
      if x.p.excKind = .impulse then y.pingActive else { y with env := { x.env with state := .attack } } := by
  unfold Voice.noteOn
  cases h : x.p.excKind <;> simp [Voice.envTrigger, Voice.update] <;> cases x.p.envType <;> rfl

/-- Note off sends the envelope to Release where the exciter is not Impulse and the envelope is AHR. -/
theorem Voice.noteOff_eq (x : Voice) :
    x.noteOff =
      if x.p.excKind = .impulse ∨ x.p.envType = .ar then x else { x with env := { x.env with state := .release } } := by
  unfold Voice.noteOff Voice.envRelease
  cases x.p.excKind <;> cases x.p.envType <;> rfl

/-! ## The sample -/

@[simp] theorem Voice.tick_p (sr n : F32) (x : Voice) : (x.tick sr n).2.p = x.p := rfl
@[simp] theorem Voice.tick_noteFreq (sr n : F32) (x : Voice) : (x.tick sr n).2.noteFreq = x.noteFreq := rfl
@[simp] theorem Voice.tick_velocity (sr n : F32) (x : Voice) : (x.tick sr n).2.velocity = x.velocity := rfl
@[simp] theorem Voice.tick_dirty (sr n : F32) (x : Voice) : (x.tick sr n).2.dirty = x.dirty := rfl
@[simp] theorem Voice.tick_modesWritten (sr n : F32) (x : Voice) :
    (x.tick sr n).2.modesWritten = x.modesWritten := rfl
@[simp] theorem Voice.tick_exc (sr n : F32) (x : Voice) : (x.tick sr n).2.exc = x.exc.tick := rfl
@[simp] theorem Voice.tick_env (sr n : F32) (x : Voice) : (x.tick sr n).2.env = x.env.tick x.p.envType := rfl
@[simp] theorem Voice.tick_chCtl (sr n : F32) (x : Voice) : (x.tick sr n).2.chCtl = x.chCtl.tick := rfl
@[simp] theorem Voice.tick_chGen (sr n : F32) (x : Voice) :
    (x.tick sr n).2.chGen = (x.chGen.setFreq sr (fadd C.twenty (fmul C.n19980 x.chCtl.tick.phase))).tick := rfl

/-- The bank and the formant filter of a voice after its tick: every active lane ticked on one excitation, every band
ticked once. -/
theorem Voice.tick_res_fmt (sr n : F32) (x : Voice) :
    ∃ e raw, (x.tick sr n).2.res = (bankTick e x.p.modeCount.toNat C.zero x.res).2 ∧
      raw = (bankTick e x.p.modeCount.toNat C.zero x.res).1 ∧
      (x.tick sr n).2.fmt = (x.fmt.tick x.p.fmtArch raw).2 := ⟨_, _, rfl, rfl, rfl⟩

@[simp] theorem Voice.tick_res_length (sr n : F32) (x : Voice) : (x.tick sr n).2.res.length = x.res.length := by
  obtain ⟨e, raw, h, -, -⟩ := x.tick_res_fmt sr n
  rw [h, bankTick_length]

end Sys2Proof.Machine
end

