-- ==== Sys2Proof/Laws/Ops.lean ====
section
/-! SUPPORT. What a command can do, once: the two ways it can end (R159), the one voice or all of them that it reaches
(R125), what it can do to a voice, and the free slot it can take (R140). -/

namespace Sys2Proof.Machine

/-! ## The output port in bytes -/

/-- An emitted word leaves as its four bytes after those of the words before it (R43, R44). -/
@[simp] theorem State.emit_outBytes (w : Word) (s : State) : (s.emit w).outBytes = s.outBytes ++ bytesOfWord w := by
  simp [State.outBytes, State.emit, bytesOfWords]

/-! ## Ending a command -/

@[simp] theorem runCommand_none (i : Instr) (s e : State) : runCommand i none s e = .next e := rfl

@[simp] theorem runCommand_some (i : Instr) (r : IllReason) (s e : State) :
    runCommand i (some r) s e = .next (s.raiseIll (illInfoOf i r)) := rfl

/-- A command either raises ILL, writing nothing else, or has its whole effect. -/
theorem runCommand_cases {i : Instr} {o : Option IllReason} {s e t : State} (h : runCommand i o s e = .next t) :
    (∃ r, o = some r ∧ t = s.raiseIll (illInfoOf i r)) ∨ (o = none ∧ t = e) := by
  cases o with
  | none => exact .inr ⟨rfl, by simpa using h.symm⟩
  | some r => exact .inl ⟨r, rfl, by simpa using h.symm⟩

/-! ## The value checks (R125, R150) -/

/-- SET_SR takes the patterns of the finite positive values. -/
theorem badRate_eq (sr : F32) :
    badRate sr = if 0 < sr.toNat ∧ sr.toNat < 0x7F800000 then none else some .badValue := by
  have key : (fgt sr C.zero && flt sr posInf) = decide (0 < sr.toNat ∧ sr.toNat < 0x7F800000) := by
    rw [Bool.eq_iff_iff, Bool.and_eq_true, decide_eq_true_iff]
    unfold fgt
    have ht := toNat_eq sr
    have hlt := magBits_lt sr
    have hn : isNaN sr = decide (0x7F800000 < magBits sr) := rfl
    rw [flt_iff, flt_iff, show orderKey C.zero = 0 by decide, show orderKey posInf = 0x7F800000 by decide,
      show isNaN C.zero = false by decide, show isNaN posInf = false by decide, hn]
    unfold orderKey
    generalize sr.toNat = t at *
    generalize magBits sr = m at *
    cases hs : signBit sr
    · simp only [hs, Bool.false_eq_true, if_false, Nat.zero_add] at ht ⊢
      subst ht
      simp only [true_and, decide_eq_false_iff_not, not_lt]
      constructor <;> intro h <;> (try constructor) <;> omega
    · simp only [hs, if_true] at ht ⊢
      simp only [true_and, decide_eq_false_iff_not, not_lt]
      constructor <;> intro h <;> omega
  unfold badRate
  simp only [key, decide_eq_true_eq]

/-- The parameter ids are exactly 0 to 0x12. -/
theorem ParamId.ofByte_isSome (b : Byte) : (ParamId.ofByte b).isSome = decide (b.toNat ≤ 0x12) := by
  revert b; decide

/-- The biquad types are exactly 0 to 6. -/
theorem BiquadType.ofByte_isSome (b : Byte) : (BiquadType.ofByte b).isSome = decide (b.toNat < 7) := by
  revert b; decide

/-- No check refuses a command exactly where R61 calls it legal: the machine's checks against the bit patterns of
WellFormed.lean, for PARAM_WR's values. -/
theorem badParamValue_eq (s : State) (v id : Byte) (w : Word) (h : id.toNat ≤ 0x12) :
    badParamValue s id w = if (Instr.paramWr v id w).operandsLegal s.maxModes then none else some .badValue := by
  have hid : id.toNat = 0x00 ∨ id.toNat = 0x01 ∨ id.toNat = 0x02 ∨ id.toNat = 0x03 ∨ id.toNat = 0x04 ∨ id.toNat = 0x05 ∨
      id.toNat = 0x06 ∨ id.toNat = 0x07 ∨ id.toNat = 0x08 ∨ id.toNat = 0x09 ∨ id.toNat = 0x0A ∨ id.toNat = 0x0B ∨
      id.toNat = 0x0C ∨ id.toNat = 0x0D ∨ id.toNat = 0x0E ∨ id.toNat = 0x0F ∨ id.toNat = 0x10 ∨ id.toNat = 0x11 ∨
      id.toNat = 0x12 := by omega
  unfold badParamValue ParamId.ofByte Instr.operandsLegal
  rcases hid with h | h | h | h | h | h | h | h | h | h | h | h | h | h | h | h | h | h | h <;>
    simp [h, ParamId.accepts]

/-! ## The voices a command reaches -/

@[simp] theorem State.onVoice_getElem? (v : Nat) (f : Voice → Voice) (s : State) (k : Nat) :
    (s.onVoice v f).voices[k]? = (s.voices[k]?).map fun x => if v = k then f x else x := by
  rw [State.onVoice_voices, List.getElem?_modify]
  split <;> simp

@[simp] theorem State.onTargets_getElem? (v : Byte) (f : Voice → Voice) (s : State) (k : Nat) :
    (s.onTargets v f).voices[k]? = (s.voices[k]?).map fun x => if v = 0xFF#8 ∨ v.toNat = k then f x else x := by
  unfold State.onTargets
  split <;> rename_i h
  · simp [h]
  · rw [State.onVoice_getElem?]; simp [h]

/-- The voices after a sample: each ticked with its own draw. -/
theorem tickVoices_snd (sr : F32) (k : Nat) (acc : F32) (xs : List Voice) :
    (tickVoices sr k acc xs).2 = xs.mapIdx fun j x => (x.tick sr (noiseDraw (k + j))).2 := by
  induction xs generalizing k acc with
  | nil => rfl
  | cons x xs ih => simp [tickVoices, ih, List.mapIdx_cons, Nat.add_assoc, Nat.add_comm 1]

@[simp] theorem tickVoices_length (sr : F32) (k : Nat) (acc : F32) (xs : List Voice) :
    (tickVoices sr k acc xs).2.length = xs.length := by simp [tickVoices_snd]

/-! ## What a command can do to one voice -/

/-- The changes of one voice by one command, at the rate `sr` before it and `sr'` after it, on an engine of `mm` resonators
a voice. -/
inductive VoiceChange (sr sr' : F32) (mm : Nat) (x : Voice) : Voice → Prop
  | kept (h : sr' = sr) : VoiceChange sr sr' mm x x
  | updated (h : sr' = sr) : VoiceChange sr sr' mm x (x.update sr)
  | started (h : sr' = sr) (f vel : F32) : VoiceChange sr sr' mm x (x.noteOn sr f vel)
  | released (h : sr' = sr) : VoiceChange sr sr' mm x x.noteOff
  | written (h : sr' = sr) (id : ParamId) (w : Word) (ok : id.accepts mm w = true) :
      VoiceChange sr sr' mm x (x.writeParam sr id w)
  | resSet (h : sr' = sr) (m : Nat) (f a d : F32) : VoiceChange sr sr' mm x (x.onRes m (Resonator.setParams sr f a d))
  | resPinged (h : sr' = sr) (m : Nat) : VoiceChange sr sr' mm x (x.onRes m Resonator.ping)
  | designed (h : sr' = sr) (b : Nat) (t : BiquadType) (fc q : F32) :
      VoiceChange sr sr' mm x (x.onBand b (Band.design sr t fc q))
  | gainSet (h : sr' = sr) (b : Nat) (g : F32) : VoiceChange sr sr' mm x (x.onBand b (Band.setGain g))
  | ticked (h : sr' = sr) (k : Nat) : VoiceChange sr sr' mm x (x.tick sr (noiseDraw k)).2
  | retimed (h : badRate sr' = none) : VoiceChange sr sr' mm x (x.setSampleRate sr')

theorem forall₂_map {R : Voice → Voice → Prop} {f : Voice → Voice} (h : ∀ x, R x (f x)) (xs : List Voice) :
    List.Forall₂ R xs (xs.map f) := by
  induction xs with
  | nil => exact .nil
  | cons x xs ih => exact .cons (h x) ih

theorem forall₂_modify {R : Voice → Voice → Prop} {f : Voice → Voice} (h0 : ∀ x, R x x) (h : ∀ x, R x (f x))
    (v : Nat) (xs : List Voice) : List.Forall₂ R xs (xs.modify v f) := by
  induction xs generalizing v with
  | nil => simp
  | cons x xs ih =>
    cases v with
    | zero => exact .cons (h x) (List.forall₂_same.mpr fun x _ => h0 x)
    | succ v => exact .cons (h0 x) (ih v)

theorem forall₂_onTargets {R : Voice → Voice → Prop} {f : Voice → Voice} (h0 : ∀ x, R x x) (h : ∀ x, R x (f x))
    (v : Byte) (s : State) : List.Forall₂ R s.voices (s.onTargets v f).voices := by
  rw [State.onTargets_voices]
  split
  · exact forall₂_map h _
  · exact forall₂_modify h0 h _ _

theorem forall₂_tickVoices {R : Voice → Voice → Prop} {sr : F32} (h : ∀ x k, R x (x.tick sr (noiseDraw k)).2)
    (k : Nat) (acc : F32) (xs : List Voice) : List.Forall₂ R xs (tickVoices sr k acc xs).2 := by
  induction xs generalizing k acc with
  | nil => exact .nil
  | cons x xs ih => exact .cons (h x k) (ih _ _)

/-- Whatever a command is, each voice after it is the voice before it under one of these changes, but for RESET, which makes
every voice new. -/
theorem exec_voices {i : Instr} {s t : State} (h : exec i s = .next t) :
    (i = .reset ∧ t = s.resetAll) ∨ List.Forall₂ (VoiceChange s.sr t.sr s.maxModes) s.voices t.voices := by
  have refl : ∀ r, List.Forall₂ (VoiceChange s.sr (s.raiseIll r).sr s.maxModes) s.voices (s.raiseIll r).voices :=
    fun r => List.forall₂_same.mpr fun x _ => .kept rfl
  have keep : ∀ x, VoiceChange s.sr s.sr s.maxModes x x := fun x => .kept rfl
  have same : List.Forall₂ (VoiceChange s.sr s.sr s.maxModes) s.voices s.voices :=
    List.forall₂_same.mpr fun x _ => .kept rfl
  cases i <;> simp only [exec, execNop, execReset, execSetSr, execTick, execApply, execReadStatus, execClearStatus,
    execParamWr, execVoiceOn, execVoiceOff, execUpdate, execResSet, execResPing, execBiqDesign, execFormantGain,
    execKeyDown, execKeyUp, execReadSlot] at h <;>
    obtain ⟨r, hr, rfl⟩ | ⟨ho, rfl⟩ := runCommand_cases h <;>
    first
      | exact .inr (refl _)
      | exact .inr same
      | exact .inl ⟨rfl, rfl⟩
      | right
  case setSr => exact forall₂_map (fun x => .retimed ho) _
  case tick => exact forall₂_tickVoices (fun x k => .ticked rfl k) _ _ _
  case apply =>
    refine forall₂_map (fun x => ?_) _
    split
    · exact .updated rfl
    · exact .kept rfl
  case paramWr v id w =>
    simp only [Option.orElse_eq_none, badParamValue] at ho
    cases hp : ParamId.ofByte id with
    | none => exact same
    | some p =>
      simp only [hp, ite_eq_left_iff, reduceCtorEq, imp_false, Bool.not_eq_true, Bool.not_eq_false] at ho
      simp only [State.onTargets_sr]
      exact forall₂_onTargets keep (fun x => .written rfl p w ho.2.2) _ _
  case voiceOn v f vel => exact forall₂_modify keep (fun x => .started rfl f vel) _ _
  case voiceOff => exact forall₂_modify keep (fun x => .released rfl) _ _
  case update => rw [State.onTargets_sr]; exact forall₂_onTargets keep (fun x => .updated rfl) _ _
  case resSet v m f a d => exact forall₂_modify keep (fun x => .resSet rfl _ f a d) _ _
  case resPing => exact forall₂_modify keep (fun x => .resPinged rfl _) _ _
  case biqDesign v b t fc q =>
    cases BiquadType.ofByte t with
    | none => exact same
    | some bt => exact forall₂_modify keep (fun x => .designed rfl _ bt fc q) _ _
  case formantGain v b g => rw [State.onTargets_sr]; exact forall₂_onTargets keep (fun x => .gainSet rfl _ g) _ _
  case keyDown n vel =>
    unfold State.keyDown
    split
    · exact forall₂_modify keep (fun x => .started rfl _ vel) _ _
    · exact same
  case keyUp =>
    unfold State.keyUp
    split
    · exact forall₂_modify keep (fun x => .released rfl) _ _
    · exact same

/-! ## The free slot of the scan -/

theorem freeSlot_some {slots : List (Option (BitVec 7))} {nv last k : Nat} (h : freeSlot slots nv last = some k) :
    k < nv ∧ slots[k]? = some none ∧
      ∃ d, d < nv ∧ k = (last + (d + 1)) % nv ∧ ∀ j, j < d → slots[(last + (j + 1)) % nv]? ≠ some none := by
  unfold freeSlot scanOrder at h
  rw [List.find?_map, Option.map_eq_some_iff] at h
  obtain ⟨d, hd, rfl⟩ := h
  have hm := List.mem_of_find?_eq_some hd
  rw [List.mem_range] at hm
  have hp := List.find?_some hd
  simp only [Function.comp_apply, beq_iff_eq] at hp
  refine ⟨Nat.mod_lt _ (by omega), hp, d, hm, rfl, fun j hj hs => ?_⟩
  rw [List.find?_range_eq_some] at hd
  have := hd.2.2 j hj
  simp [hs] at this

theorem freeSlot_none {slots : List (Option (BitVec 7))} {nv last : Nat} (h : freeSlot slots nv last = none) :
    ∀ j, j < nv → slots[(last + (j + 1)) % nv]? ≠ some none := by
  unfold freeSlot scanOrder at h
  rw [List.find?_map, Option.map_eq_none_iff, List.find?_eq_none] at h
  intro j hj hs
  have := h j (List.mem_range.mpr hj)
  simp [hs] at this

end Sys2Proof.Machine
end

