-- ==== Sys2Proof/Laws/PerInstr.lean ====
section
/-! SUPPORT. The statements made for every command, one lemma per constructor of `Instr`: the framing of a command by its
opcode (R54 to R60). -/

namespace Sys2Proof.Laws

/-- The opcode alone fixes the number of operand words (R59), the fields it marks `0` are clear in the command word (R60),
and its reading of the command's own words is the command (R55 to R57). -/
def Framing.Statement (i : Instr) : Prop :=
  i.operands.length = i.opcode.operandCount ∧
    i.opcode.reservedClear i.commandWord = true ∧
    i.opcode.instr i.commandWord i.operands = i

theorem Framing.nop : Framing.Statement .nop :=
  ⟨rfl, Instr.reservedClear_commandWord _, Instr.instr_commandWord _⟩

theorem Framing.reset : Framing.Statement .reset :=
  ⟨rfl, Instr.reservedClear_commandWord _, Instr.instr_commandWord _⟩

theorem Framing.setSr (sr : F32) : Framing.Statement (.setSr sr) :=
  ⟨rfl, Instr.reservedClear_commandWord _, Instr.instr_commandWord _⟩

theorem Framing.tick : Framing.Statement .tick :=
  ⟨rfl, Instr.reservedClear_commandWord _, Instr.instr_commandWord _⟩

theorem Framing.apply : Framing.Statement .apply :=
  ⟨rfl, Instr.reservedClear_commandWord _, Instr.instr_commandWord _⟩

theorem Framing.readStatus : Framing.Statement .readStatus :=
  ⟨rfl, Instr.reservedClear_commandWord _, Instr.instr_commandWord _⟩

theorem Framing.clearStatus : Framing.Statement .clearStatus :=
  ⟨rfl, Instr.reservedClear_commandWord _, Instr.instr_commandWord _⟩

theorem Framing.paramWr (v id : Byte) (w : Word) : Framing.Statement (.paramWr v id w) :=
  ⟨rfl, Instr.reservedClear_commandWord _, Instr.instr_commandWord _⟩

theorem Framing.voiceOn (v : Byte) (freq vel : F32) : Framing.Statement (.voiceOn v freq vel) :=
  ⟨rfl, Instr.reservedClear_commandWord _, Instr.instr_commandWord _⟩

theorem Framing.voiceOff (v : Byte) : Framing.Statement (.voiceOff v) :=
  ⟨rfl, Instr.reservedClear_commandWord _, Instr.instr_commandWord _⟩

theorem Framing.update (v : Byte) : Framing.Statement (.update v) :=
  ⟨rfl, Instr.reservedClear_commandWord _, Instr.instr_commandWord _⟩

theorem Framing.resSet (v m : Byte) (freq amp decay : F32) : Framing.Statement (.resSet v m freq amp decay) :=
  ⟨rfl, Instr.reservedClear_commandWord _, Instr.instr_commandWord _⟩

theorem Framing.resPing (v m : Byte) : Framing.Statement (.resPing v m) :=
  ⟨rfl, Instr.reservedClear_commandWord _, Instr.instr_commandWord _⟩

theorem Framing.biqDesign (v b t : Byte) (fc q : F32) : Framing.Statement (.biqDesign v b t fc q) :=
  ⟨rfl, Instr.reservedClear_commandWord _, Instr.instr_commandWord _⟩

theorem Framing.formantGain (v b : Byte) (gainDb : F32) : Framing.Statement (.formantGain v b gainDb) :=
  ⟨rfl, Instr.reservedClear_commandWord _, Instr.instr_commandWord _⟩

theorem Framing.keyDown (n : Byte) (vel : F32) : Framing.Statement (.keyDown n vel) :=
  ⟨rfl, Instr.reservedClear_commandWord _, Instr.instr_commandWord _⟩

theorem Framing.keyUp (n : Byte) : Framing.Statement (.keyUp n) :=
  ⟨rfl, Instr.reservedClear_commandWord _, Instr.instr_commandWord _⟩

theorem Framing.readSlot (v : Byte) : Framing.Statement (.readSlot v) :=
  ⟨rfl, Instr.reservedClear_commandWord _, Instr.instr_commandWord _⟩

end Sys2Proof.Laws
end

