-- ==== Sys2Proof/Tests/Slice0.lean ====
section
/-! SUPPORT. The author's tests: a term each check of well-formedness refuses, decoding from words written out by R58, the
vectors of 95_test_vectors.md that need no transcendental function, one step per command, and for every statement with
hypotheses a witness that meets them. -/

namespace Sys2Proof.Tests

open Sys2Proof Sys2Proof.Machine

-- One theorem at a time: kernel evaluations side by side take more memory than the check allows.
set_option Elab.async false

/-! ## Helpers -/

/-- The reset state of the vectors' engine: two voices of eight resonators (section 0 of 95_test_vectors.md). -/
def tiny : State := State.resetWith 2 8

/-- A filter of zero coefficients, so that a tick needs no transcendental function. -/
def flatBiquad : Biquad :=
  { bt := .bpfCpg, fc := 0#32, q := 0#32, co := ⟨0#32, 0#32, 0#32, 0#32, 0#32⟩,
    x1 := 0#32, x2 := 0#32, y1 := 0#32, y2 := 0#32 }

/-- A band of zero coefficients at 0 dB. -/
def flatBand : Band := { filter := flatBiquad, gainDb := 0#32, gainLin := C.one }

/-- A reset voice with flat bands. -/
def flatVoice : Voice := { Voice.atReset C.n48000 8 with fmt := ⟨flatBand, flatBand, flatBand, flatBand⟩ }

/-- A flat voice whose resonator 0 has coefficient (0.5, 0.5), state (1, 0) and plays. -/
def ringing : Voice :=
  { flatVoice with res := flatVoice.res.set 0 ⟨0#32, C.two, 0#32, C.half, C.half, C.one, 0#32, true⟩ }

/-- The engine with the given voices. -/
def withVoices (vs : List Voice) : State := { tiny with voices := vs }

/-- The state after one step on the given words, the state itself where there is none. -/
def after (s : State) (ws : List Word) : State :=
  match step { s with cmd := ws } with
  | .next t => t
  | .fault _ => s
  | .refused _ => s

/-- Voice `v`, a reset voice where there is none. -/
def voice (s : State) (v : Nat) : Voice := s.voices.getD v flatVoice

/-- Resonator `m` of voice `v`. -/
def reso (s : State) (v m : Nat) : Resonator := (voice s v).res.getD m Resonator.atReset

/-- The reason of the last refusal. -/
def why (s : State) : Option IllReason := s.illInfo.map IllInfo.reason

/-! ## Well-formedness: an ill-formed term for each check -/

theorem smoke_wellFormed_refuses :
    Instr.wellFormed 2 8 (.voiceOn 2#8 0#32 0#32) = false ∧
      Instr.wellFormed 2 8 (.voiceOff 0xFF#8) = false ∧
      Instr.wellFormed 2 8 (.update 0xFE#8) = false ∧
      Instr.wellFormed 2 8 (.paramWr 2#8 0#8 1#32) = false ∧
      Instr.wellFormed 2 8 (.paramWr 0#8 0x13#8 1#32) = false ∧
      Instr.wellFormed 2 8 (.resSet 2#8 0#8 0#32 0#32 0#32) = false ∧
      Instr.wellFormed 2 8 (.resSet 0#8 8#8 0#32 0#32 0#32) = false ∧
      Instr.wellFormed 2 8 (.resPing 2#8 0#8) = false ∧
      Instr.wellFormed 2 8 (.resPing 0#8 8#8) = false ∧
      Instr.wellFormed 2 8 (.biqDesign 2#8 0#8 0#8 0#32 0#32) = false ∧
      Instr.wellFormed 2 8 (.biqDesign 0#8 4#8 0#8 0#32 0#32) = false ∧
      Instr.wellFormed 2 8 (.biqDesign 0#8 0#8 7#8 0#32 0#32) = false ∧
      Instr.wellFormed 2 8 (.formantGain 2#8 0#8 0#32) = false ∧
      Instr.wellFormed 2 8 (.formantGain 0#8 4#8 0#32) = false ∧
      Instr.wellFormed 2 8 (.keyDown 128#8 0#32) = false ∧
      Instr.wellFormed 2 8 (.keyUp 128#8) = false ∧
      Instr.wellFormed 2 8 (.readSlot 2#8) = false := by decide

theorem smoke_operandsLegal_refuses :
    Instr.legal 2 8 (.setSr 0x00000000#32) = false ∧ Instr.legal 2 8 (.setSr 0x7F800000#32) = false ∧
      Instr.legal 2 8 (.setSr 0x80000001#32) = false ∧
      Instr.legal 2 8 (.paramWr 0#8 0x00#8 0#32) = false ∧ Instr.legal 2 8 (.paramWr 0#8 0x00#8 9#32) = false ∧
      Instr.legal 2 8 (.paramWr 0#8 0x06#8 3#32) = false ∧ Instr.legal 2 8 (.paramWr 0#8 0x09#8 5#32) = false ∧
      Instr.legal 2 8 (.paramWr 0#8 0x11#8 2#32) = false ∧ Instr.legal 2 8 (.paramWr 0#8 0x12#8 0x100#32) = false := by
  decide

theorem smoke_legal_accepts_the_edges :
    Instr.legal 2 8 (.voiceOn 1#8 0#32 0#32) = true ∧ Instr.legal 2 8 (.update 0xFF#8) = true ∧
      Instr.legal 2 8 (.resSet 1#8 7#8 0#32 0#32 0#32) = true ∧
      Instr.legal 2 8 (.biqDesign 1#8 3#8 6#8 0#32 0#32) = true ∧
      Instr.legal 2 8 (.paramWr 0xFF#8 0x00#8 8#32) = true ∧ Instr.legal 2 8 (.keyUp 127#8) = true ∧
      Instr.legal 2 8 (.setSr 0x00000001#32) = true ∧ Instr.legal 2 8 (.setSr 0x7F7FFFFF#32) = true := by decide

/-! ## Decoding: words written out from the fields of R55 and the map of R58 -/

theorem test_decode_system :
    decode [0b00000000000000000000000000000000#32] = .command .nop [] ∧
      decode [0b00000001000000000000000000000000#32] = .command .reset [] ∧
      decode [0b00000010000000000000000000000000#32, 0x45#32] = .command (.setSr 0x45#32) [] ∧
      decode [0b00000011000000000000000000000000#32] = .command .tick [] ∧
      decode [0b00000100000000000000000000000000#32] = .command .apply [] ∧
      decode [0b00000101000000000000000000000000#32] = .command .readStatus [] ∧
      decode [0b00000110000000000000000000000000#32] = .command .clearStatus [] := by decide

theorem test_decode_voice :
    decode [0b00010000000001010001001000000000#32, 7#32] = .command (.paramWr 5#8 0x12#8 7#32) [] ∧
      decode [0b00100000000001010000000000000000#32, 7#32, 9#32] = .command (.voiceOn 5#8 7#32 9#32) [] ∧
      decode [0b00100001000001010000000000000000#32] = .command (.voiceOff 5#8) [] ∧
      decode [0b00100010111111110000000000000000#32] = .command (.update 0xFF#8) [] := by decide

theorem test_decode_resonator :
    decode [0b00110000000001010000100100000000#32, 7#32, 8#32, 9#32, 1#32] =
        .command (.resSet 5#8 9#8 7#32 8#32 9#32) [1#32] ∧
      decode [0b00110001000001010000100100000000#32, 1#32] = .command (.resPing 5#8 9#8) [1#32] := by decide

theorem test_decode_filter :
    decode [0b01000000000001010000001100000110#32, 7#32, 8#32] = .command (.biqDesign 5#8 3#8 6#8 7#32 8#32) [] ∧
      decode [0b01000001000001010000001100000000#32, 7#32] = .command (.formantGain 5#8 3#8 7#32) [] := by decide

theorem test_decode_controller :
    decode [0b01010000000000000000000001111111#32, 7#32] = .command (.keyDown 127#8 7#32) [] ∧
      decode [0b01010001000000000000000001111111#32] = .command (.keyUp 127#8) [] ∧
      decode [0b01010010000001010000000000000000#32] = .command (.readSlot 5#8) [] := by decide

/-- R44: least significant byte first, both ways. -/
theorem test_bytes :
    wordsOfBytes [0x04#8, 0x03#8, 0x02#8, 0x01#8, 0xFF#8] = [0x01020304#32] ∧
      State.outBytes { tiny with out := [0x01020304#32, 0x8000003C#32] } =
        [0x04#8, 0x03#8, 0x02#8, 0x01#8, 0x3C#8, 0x00#8, 0x00#8, 0x80#8] := by decide

theorem test_decode_waits_and_refuses :
    decode [] = .waiting ∧ decode [0x20000000#32, 0x43DC0000#32] = .waiting ∧
      decode [0x07000000#32, 5#32] = .illegal .unknownOpcode 0x07000000#32 [5#32] ∧
      decode [0x10001301#32, 5#32, 6#32] = .illegal .reservedFieldNonzero 0x10001301#32 [6#32] := by decide

theorem test_tableWord :
    decodeTableWord 128 0x3FC000003F000000445C000030010300 =
        some (.resSet 1#8 3#8 0x445C0000#32 0x3F000000#32 0x3FC00000#32) ∧
      decodeTableWord 32 0x20000000 = some (.voiceOn 0#8 0#32 0#32) ∧
      decodeTableWord 32 0x00000001 = none := by decide

/-! ## Arithmetic: the constants of R16 and the rounding of R12 -/

theorem test_integer_constants :
    [(1, C.one), (2, C.two), (4, C.four), (10, C.ten), (12, C.twelve), (20, C.twenty), (69, C.n69), (270, C.n270),
      (390, C.n390), (440, C.n440), (840, C.n840), (1320, C.n1320), (1450, C.n1450), (1690, C.n1690), (3500, C.n3500),
      (19980, C.n19980), (20000, C.n20000), (48000, C.n48000)].all (fun c => f32OfNat c.1 == c.2) = true := by
  decide +kernel

/-- 0.5, 0.1, 0.05, 0.01 and 0.001 are the quotients of their integers, and TWO_PI32 is twice PI32 (R16). -/
theorem test_fraction_constants :
    fdiv C.one C.two = C.half ∧ fdiv C.one C.ten = C.c0p1 ∧ fdiv C.one C.twenty = C.c0p05 ∧
      fdiv C.one (f32OfNat 100) = C.c0p01 ∧ fdiv C.one (f32OfNat 1000) = C.c0p001 ∧
      fmul C.two 0x40490FDB#32 = C.twoPi := by decide +kernel

/-- Ties go to even, subnormals are kept, overflow gives an infinity, an invalid operation the canonical NaN. -/
theorem test_rounding_corners :
    fadd 0x4B800000#32 0x3F800000#32 = 0x4B800000#32 ∧ fadd 0x4B800001#32 0x3F800000#32 = 0x4B800002#32 ∧
      fmul 0x00800000#32 0x3F000000#32 = 0x00400000#32 ∧ fmul 0x00000001#32 0x3F000000#32 = 0x00000000#32 ∧
      fmul 0x7F7FFFFF#32 0x40000000#32 = 0x7F800000#32 ∧ fsub 0x7F800000#32 0x7F800000#32 = 0x7FC00000#32 ∧
      fsub 0x3F800000#32 0x3F800000#32 = 0x00000000#32 ∧ fadd 0x80000000#32 0x80000000#32 = 0x80000000#32 ∧
      fdiv 0x3F800000#32 0x80000000#32 = 0xFF800000#32 := by decide +kernel

/-! ## Units: the vectors PH, WF, EN, FM and S of 95_test_vectors.md -/

theorem test_PH_1 : (Phasor.atReset.setFreq C.n48000 C.n440).inc = 0x3C162FC9#32 := by decide +kernel

theorem test_PH_2 :
    (Phasor.tick ⟨0x3E800000#32, 0#32, 0x3E800000#32⟩).phase = 0x3F000000#32 ∧
      (Phasor.tick ⟨0x3F400000#32, 0#32, 0x3E800000#32⟩).phase = 0x00000000#32 := by decide +kernel

theorem test_PH_3 : (Phasor.tick ⟨0x3F7FFFFF#32, 0#32, 0x33800000#32⟩).phase = 0x00000000#32 := by decide +kernel

theorem test_PH_5_and_PH_6 :
    (Phasor.tick ⟨0x3FA00000#32, 0#32, 0x3FE00000#32⟩).phase = 0x40000000#32 ∧
      (Phasor.tick ⟨0x3E800000#32, 0#32, 0xBF000000#32⟩).phase = 0xBE800000#32 := by decide +kernel

theorem test_WF_2_to_4 :
    wfSaw 0x3E800000#32 = 0xBF000000#32 ∧ wfTri 0x3E000000#32 = 0x3F000000#32 ∧ wfTri 0x3F000000#32 = 0xBF800000#32 ∧
      wfRect 0x3F19999A#32 C.half = C.one ∧ wfRect 0x3ECCCCCD#32 C.half = C.negOne := by decide +kernel

theorem test_WF_5_and_WF_7 :
    blep 0x3D800000#32 0x3E000000#32 = 0xBE800000#32 ∧ blep 0x3F700000#32 0x3E000000#32 = 0x3E800000#32 ∧
      wfAaSaw 0x3D800000#32 0x3E000000#32 = 0xBF200000#32 ∧ wfAaRect 0x3F700000#32 0x3E000000#32 C.half = 0x3F400000#32 ∧
      wfAaRect 0x3E800000#32 0x3E800000#32 C.half = C.negOne ∧ wfAaRect 0x3F400000#32 0x3E800000#32 C.half = C.one := by
  decide +kernel

theorem test_EN_1 :
    envIncrement C.four C.half = 0x3F000000#32 ∧ envIncrement C.four C.one = 0x3E800000#32 := by decide +kernel

theorem test_EN_2_to_4 :
    Envelope.tick .ahr ⟨.attack, C.half, C.half, 0x3E800000#32⟩ = ⟨.hold, C.one, C.half, 0x3E800000#32⟩ ∧
      Envelope.tick .ahr ⟨.release, 0x3E800000#32, C.half, 0x3E800000#32⟩ = ⟨.rest, 0#32, C.half, 0x3E800000#32⟩ ∧
      Envelope.tick .ar ⟨.attack, C.half, C.half, 0x3E800000#32⟩ = ⟨.release, C.one, C.half, 0x3E800000#32⟩ := by
  decide +kernel

theorem test_EN_7_and_EN_8 :
    Envelope.tick .ahr ⟨.attack, C.half, qnan, C.half⟩ = ⟨.attack, 0#32, qnan, C.half⟩ ∧
      Envelope.tick .ahr ⟨.attack, 0#32, posInf, C.half⟩ = ⟨.hold, C.one, posInf, C.half⟩ := by decide +kernel

theorem test_FM_2 :
    let p := { Params.atReset with fmtX := C.one, fmtY := C.one, fmtZ := C.one, fmtLen := C.one }
    formantF1 p = 0x44778000#32 ∧ formantF2 p = 0x4556B000#32 ∧ formantF3 p = 0x458D1800#32 ∧
      formantF4 p = 0x45A41000#32 := by decide +kernel

/-- BQ-12: an output that overflows is replaced by +0. -/
theorem test_BQ_12 :
    Biquad.output { flatBiquad with co := ⟨0x7F7FFFFF#32, 0#32, 0#32, 0#32, 0#32⟩ } C.two = 0x00000000#32 := by
  decide +kernel

theorem test_S_1_and_S_2 :
    midiToFreq 69 = 0x43DC0000#32 ∧ dbToGain 0#32 = C.one ∧ dbToGain negInf = 0x00000000#32 := by decide +kernel

/-- S-6 with exponent 0, where POW32 is 1 by law: 440 Hz reflected at 300 is 160. -/
theorem test_foldback :
    Voice.modeFreq { flatVoice with
      noteFreq := C.n440
      p := { Params.atReset with exponent := 0#32, foldMode := .foldback, foldPoint := f32OfNat 300 } } 3 =
        f32OfNat 160 := by decide +kernel

/-! ## One step per command -/

theorem test_nop : after { tiny with ill := true } [0x00000000#32] = { tiny with ill := true, cmd := [] } := rfl

theorem test_reset :
    (after { tiny with ill := true, out := [7#32], sr := C.four, last := 0 } [0x01000000#32, 5#32]).ill = false ∧
      (after { tiny with out := [7#32], sr := C.four } [0x01000000#32]).out = [7#32] ∧
      (after { tiny with sr := C.four, last := 0 } [0x01000000#32, 5#32]).cmd = [5#32] ∧
      (after { tiny with sr := C.four, last := 0 } [0x01000000#32]).sr = 0x473B8000#32 ∧
      (after { tiny with sr := C.four, last := 0 } [0x01000000#32]).last = 1 := by decide +kernel

/-- CMD-5: the increments at 44100 Hz. -/
theorem test_setSr :
    let s := withVoices [{ flatVoice with exc := ⟨0#32, C.n440, 0#32⟩ }]
    (after s [0x02000000#32, 0x472C4400#32]).sr = 0x472C4400#32 ∧
      (voice (after s [0x02000000#32, 0x472C4400#32]) 0).env.ainc = 0x3B149B93#32 ∧
      (voice (after s [0x02000000#32, 0x472C4400#32]) 0).env.rinc = 0x383E37C6#32 ∧
      (voice (after s [0x02000000#32, 0x472C4400#32]) 0).exc.inc = 0x3C2377EE#32 := by decide +kernel

/-- By hand: the new imaginary part is 0.5, and 0.5 * C_0P1 is C_0P05. -/
theorem test_tick :
    (after (withVoices [{ ringing with velocity := C.one }]) [0x03000000#32]).out = [0x3D4CCCCD#32] ∧
      (reso (after (withVoices [ringing]) [0x03000000#32]) 0 0).yr = C.half ∧
      (reso (after (withVoices [ringing]) [0x03000000#32]) 0 0).yi = C.half := by decide +kernel

/-- Two voices are summed, and a resonator past MODE_COUNT neither ticks nor sounds (CMD-4). -/
theorem test_tick_sums :
    (after (withVoices [{ ringing with velocity := C.one }, { ringing with velocity := C.one }]) [0x03000000#32]).out =
        [0x3DCCCCCD#32] ∧
      (reso (after (withVoices [{ ringing with res := ringing.res.set 1 (ringing.res.getD 0 Resonator.atReset) }])
        [0x03000000#32]) 0 1).yr = C.one := by decide +kernel

/-- R125, R187: a raised MODE_COUNT ticks no further resonator before the coefficient update, which brings it into effect. -/
theorem test_modeCount_waits_for_update :
    let s := withVoices [{ ringing with res := ringing.res.set 1 (ringing.res.getD 0 Resonator.atReset) }]
    let raised := after s [0x10000000#32, 2#32]
    (voice raised 0).modesWritten = 2#32 ∧ (voice raised 0).p.modeCount = 1#32 ∧
      (reso (after raised [0x03000000#32]) 0 0).yr = C.half ∧ (reso (after raised [0x03000000#32]) 0 1).yr = C.one ∧
      (voice (after raised [0x22000000#32]) 0).p.modeCount = 2#32 := by decide +kernel

/-- P3's voice 1: updated with note frequency +0, mode 0 gets amplitude 2 and stays muted. -/
theorem test_apply :
    let s := withVoices [flatVoice, { flatVoice with dirty := true }]
    (voice (after s [0x04000000#32]) 1).dirty = false ∧ (reso (after s [0x04000000#32]) 1 0).amp = C.two ∧
      (reso (after s [0x04000000#32]) 1 0).play = false ∧ (reso (after s [0x04000000#32]) 0 0).amp = 0#32 := by
  decide +kernel

/-- CMD-2 with ILL set too. -/
theorem test_readStatus :
    (after { withVoices [flatVoice, { flatVoice with dirty := true }] with ill := true } [0x05000000#32]).out =
      [0x00020001#32] := by decide +kernel

theorem test_clearStatus : (after { tiny with ill := true } [0x06000000#32]).ill = false := by decide +kernel

/-- CMD-2c: -0 over +0 is a new pattern. CMD-2b: the held pattern is not. -/
theorem test_paramWr :
    (voice (after tiny [0x10000100#32, 0x80000000#32]) 0).dirty = true ∧
      (voice (after tiny [0x10000100#32, 0x80000000#32]) 0).p.inharm = 0x80000000#32 ∧
      (voice (after tiny [0x10010400#32, 0x3F800000#32]) 1).dirty = false := by decide +kernel

/-- R121: only the switch away from Noise resets the envelope. -/
theorem test_paramWr_exciter :
    let v : Voice := { flatVoice with env := ⟨.hold, C.one, C.half, C.half⟩ }
    let noisy : Voice := { v with p := { v.p with excKind := .noise } }
    (voice (after (withVoices [noisy]) [0x10000900#32, 2#32]) 0).env = ⟨.rest, 0#32, C.half, C.half⟩ ∧
      (voice (after (withVoices [v]) [0x10000900#32, 0#32]) 0).env = ⟨.hold, C.one, C.half, C.half⟩ := by decide +kernel

/-- S-8: one resonator at exactly 440 Hz, pinged to its amplitude 2. -/
theorem test_voiceOn :
    (reso (after tiny [0x20000000#32, 0x43DC0000#32, 0x3F800000#32]) 0 0).freq = 0x43DC0000#32 ∧
      (reso (after tiny [0x20000000#32, 0x43DC0000#32, 0x3F800000#32]) 0 0).yr = 0x40000000#32 ∧
      (voice (after tiny [0x20000000#32, 0x43DC0000#32, 0x3F800000#32]) 0).velocity = C.one ∧
      (after tiny [0x20000000#32, 0x43DC0000#32, 0x3F800000#32]).slots = [none, none] := by decide +kernel

/-- Under Noise the note starts the envelope's Attack and pings nothing (R119). -/
theorem test_voiceOn_noise :
    let s := withVoices [{ flatVoice with p := { Params.atReset with excKind := .noise } }]
    (voice (after s [0x20000000#32, 0x43DC0000#32, 0x3F800000#32]) 0).env.state = .attack ∧
      (reso (after s [0x20000000#32, 0x43DC0000#32, 0x3F800000#32]) 0 0).yr = 0#32 := by decide +kernel

theorem test_voiceOff :
    let s := withVoices [{ flatVoice with p := { Params.atReset with excKind := .square } }]
    (voice (after s [0x21000000#32]) 0).env.state = .release ∧
      (voice (after tiny [0x21000000#32]) 0).env.state = .rest := by decide +kernel

/-- VT-8: the exciter at 220 Hz. -/
theorem test_update :
    let s := withVoices [{ flatVoice with noteFreq := C.n440, p := { Params.atReset with excRate := C.two } }]
    (voice (after s [0x22FF0000#32]) 0).exc.freq = 0x435C0000#32 ∧
      (voice (after s [0x22FF0000#32]) 0).exc.inc = 0x3B962FC9#32 ∧
      (voice (after s [0x22FF0000#32]) 0).chCtl.inc = 0x3B962FC9#32 := by decide +kernel

/-- RS-4 and RS-5: 24000 Hz is muted at 48000, the next lower value is not. -/
theorem test_resSet :
    (reso (after tiny [0x30010300#32, 0x46BB8000#32, C.two, C.one]) 1 3).play = false ∧
      (reso (after tiny [0x30010300#32, 0x46BB7FFF#32, C.two, C.one]) 1 3).play = true ∧
      (reso (after tiny [0x30010300#32, 0x46BB7FFF#32, C.two, C.one]) 1 3).amp = C.two := by decide +kernel

theorem test_resPing :
    (reso (after (withVoices [ringing]) [0x31000000#32]) 0 0).yr = C.two ∧
      (reso (after (withVoices [ringing]) [0x31000000#32]) 0 0).yi = 0#32 := by decide +kernel

/-- BQ-14: band 2 becomes an LPF at 1000 Hz, band 1 is left alone. -/
theorem test_biqDesign :
    (voice (after tiny [0x40000200#32, 0x447A0000#32, 0x3F350481#32]) 0).fmt.b2.filter.bt = .lpf ∧
      (voice (after tiny [0x40000200#32, 0x447A0000#32, 0x3F350481#32]) 0).fmt.b2.filter.fc = 0x447A0000#32 ∧
      (voice (after tiny [0x40000200#32, 0x447A0000#32, 0x3F350481#32]) 0).fmt.b1.filter.bt = .bpfCpg := by decide +kernel

theorem test_formantGain :
    (voice (after tiny [0x41FF0100#32, 0xFF800000#32]) 1).fmt.b1.gainLin = 0#32 ∧
      (voice (after tiny [0x41FF0100#32, 0xFF800000#32]) 1).fmt.b2.gainLin = C.one := by decide +kernel

/-- Note 69 takes slot 0, which is just after `last`, at 440 Hz. -/
theorem test_keyDown :
    (after tiny [0x50000045#32, 0x3F800000#32]).slots = [some 69#7, none] ∧
      (voice (after tiny [0x50000045#32, 0x3F800000#32]) 0).noteFreq = 0x43DC0000#32 ∧
      (after { tiny with slots := [some 1#7, some 2#7] } [0x50000045#32, 0x3F800000#32]).slots =
        [some 1#7, some 2#7] := by decide +kernel

theorem test_keyUp :
    (after { tiny with slots := [some 60#7, some 60#7] } [0x5100003C#32]).slots = [none, some 60#7] ∧
      (after { tiny with slots := [some 60#7, none] } [0x51000063#32]).slots = [some 60#7, none] := by decide +kernel

theorem test_readSlot :
    (after { tiny with slots := [some 60#7, none] } [0x52000000#32]).out = [0x8000003C#32] ∧
      (after { tiny with slots := [some 60#7, none] } [0x52010000#32]).out = [0x00000000#32] := by decide +kernel

/-- P5: the reason of each refusal, the operand words consumed. -/
theorem test_P5 :
    why (after tiny [0x07000000#32]) = some .unknownOpcode ∧
      why (after tiny [0x00000001#32]) = some .reservedFieldNonzero ∧
      why (after tiny [0x21050000#32]) = some .badVoice ∧
      why (after tiny [0x10001300#32, 0x03000000#32]) = some .badParamId ∧
      why (after tiny [0x30000800#32, C.one, C.one, C.one]) = some .badModeIndex ∧
      why (after tiny [0x40000400#32, C.one, C.one]) = some .badBand ∧
      why (after tiny [0x40000007#32, C.one, C.one]) = some .badBiquadType ∧
      why (after tiny [0x50000080#32, C.one]) = some .badNote ∧
      why (after tiny [0x02000000#32, 0#32]) = some .badValue ∧
      why (after tiny [0x10000000#32, 0#32]) = some .badValue ∧
      why (after tiny [0x10000600#32, 3#32]) = some .badValue ∧
      why (after tiny [0x20FF0000#32, C.one, C.one]) = some .badVoice ∧
      (after tiny [0x10001300#32, 0x03000000#32]).cmd = [] ∧
      (after tiny [0x10001300#32, 0x03000000#32]).ill = true := by decide +kernel

/-- CMD-7: the command waits for its third word. -/
theorem test_CMD_7 :
    after tiny [0x20000000#32, 0x43DC0000#32] = { tiny with cmd := [0x20000000#32, 0x43DC0000#32] } := rfl

/-! ## Witnesses: states and operands that meet the hypotheses of each statement, every clause at its edges -/

/-- The opcode map's rows as the statement lists them. -/
def mapRows : List (Nat × Word × Nat) :=
  [(0x00, 0x00FFFFFF#32, 0), (0x01, 0x00FFFFFF#32, 0), (0x02, 0x00FFFFFF#32, 1), (0x03, 0x00FFFFFF#32, 0),
    (0x04, 0x00FFFFFF#32, 0), (0x05, 0x00FFFFFF#32, 0), (0x06, 0x00FFFFFF#32, 0), (0x10, 0x000000FF#32, 1),
    (0x20, 0x0000FFFF#32, 2), (0x21, 0x0000FFFF#32, 0), (0x22, 0x0000FFFF#32, 0), (0x30, 0x000000FF#32, 3),
    (0x31, 0x000000FF#32, 0), (0x40, 0x00000000#32, 2), (0x41, 0x000000FF#32, 1), (0x50, 0x00FFFF00#32, 1),
    (0x51, 0x00FFFF00#32, 0), (0x52, 0x0000FFFF#32, 0)]

theorem witness_DecodedWordsAreTheEncoding : decode [0x22FF0000#32, 5#32] = .command (.update 0xFF#8) [5#32] := by decide

/-- The command word of a row's opcode with every field 0. -/
def rowWord (r : Nat × Word × Nat) : Word := BitVec.ofNat 32 (r.1 * 0x1000000)

/-- Every row has a word of its opcode with its masked bits clear and, where it masks any, one with all of them set; the
opcodes beside the assigned ones are in no row. The second half of the first part is what the clauses on zero fields ask. -/
theorem witness_OpcodeMapAndZeroFields :
    (mapRows.all fun r =>
        (rowWord r).toNat / 0x1000000 == r.1 && rowWord r &&& r.2.1 == 0#32 &&
          (List.replicate r.2.2 (0#32)).length == r.2.2 &&
          (r.2.1 == 0#32 || ((rowWord r ||| r.2.1).toNat / 0x1000000 == r.1 && (rowWord r ||| r.2.1) &&& r.2.1 != 0#32)))
      = true ∧
      ([0x07000000#32, 0x0FFFFFFF#32, 0x11000000#32, 0x1F000000#32, 0x23000000#32, 0x2F000000#32, 0x32000000#32,
          0x3F000000#32, 0x42000000#32, 0x4F000000#32, 0x53000000#32, 0xFFFFFFFF#32].all fun w =>
        !(mapRows.map Prod.fst).contains (w.toNat / 0x1000000)) = true := by decide +kernel

theorem witness_BytesArriveLeastSignificantFirst :
    ([1#8, 2#8, 3#8] : List Byte).length < 4 ∧ tiny.out = [] := by decide

theorem witness_StepRunsTheDecodedCommand :
    decode { tiny with cmd := [0x21000000#32, 0x03000000#32] }.cmd = .command (.voiceOff 0#8) [0x03000000#32] := by
  decide

/-- An empty port, one operand short with a zero field set, a word missing, and none missing. -/
theorem witness_CommandWaitsForItsLastWord :
    tiny.cmd = [] ∧ [9#32].length < operandCountOf 0x200000FF#32 ∧
      { tiny with cmd := [0x20000000#32, 7#32] }.cmd ++ [9#32] = encode (.voiceOn 0#8 7#32 9#32) ∧ [9#32] ≠ [] ∧
      { tiny with cmd := [0x20000000#32, 7#32, 9#32] }.cmd ++ [] = encode (.voiceOn 0#8 7#32 9#32) := by decide

theorem witness_RefusalIsPrecise :
    decode { tiny with cmd := [0x53000000#32] }.cmd = .illegal .unknownOpcode 0x53000000#32 [] ∧
      decode { tiny with cmd := [0x21020000#32] }.cmd = .command (.voiceOff 2#8) [] ∧
      (Instr.voiceOff 2#8).legal tiny.nv tiny.maxModes = false ∧
      step { tiny with cmd := [0x06000000#32], ill := true } = .next { tiny with cmd := [], ill := false } :=
  ⟨by decide, by decide, by decide, rfl⟩

theorem witness_RefusedExactlyWhenIllegal :
    (Instr.readSlot 2#8).legal tiny.nv tiny.maxModes = false ∧
      (Instr.readSlot 1#8).legal tiny.nv tiny.maxModes = true := by decide

theorem witness_StepKeepsOk :
    State.Ok { tiny with cmd := [0x00000000#32] } ∧
      step { tiny with cmd := [0x00000000#32] } = .next { tiny with cmd := [] } := by
  refine ⟨?_, rfl⟩
  unfold State.Ok Voice.Ok Formant.All Envelope.Ok Biquad.Ok
  decide +kernel

theorem witness_StepKeepsDerived :
    State.Derived { tiny with cmd := [0x00000000#32] } ∧
      step { tiny with cmd := [0x00000000#32] } = .next { tiny with cmd := [] } := by
  refine ⟨?_, rfl⟩
  intro x hx
  obtain rfl : x = Voice.atReset C.n48000 8 := List.eq_of_mem_replicate hx
  refine ⟨by unfold Phasor.Derived; decide +kernel, by unfold Phasor.Derived; decide +kernel,
    by unfold Phasor.Derived; decide +kernel, rfl, rfl, ?_, by unfold Resonator.Derived; decide +kernel⟩
  have h : dbToGain C.zero = C.one := by decide +kernel
  exact ⟨⟨rfl, h.symm⟩, ⟨rfl, h.symm⟩, ⟨rfl, h.symm⟩, ⟨rfl, h.symm⟩⟩

/-- A command that emits and one that does not. -/
theorem witness_OnlyThreeCommandsEmit :
    exec (.readSlot 1#8) tiny = .next { tiny with out := [0#32] } ∧
      (Instr.readSlot 1#8).legal tiny.nv tiny.maxModes = true ∧ exec .nop tiny = .next tiny := ⟨rfl, by decide, rfl⟩

/-- Each of the three inequalities holds of some command. -/
theorem witness_WritersOfSharedState :
    (after tiny [0x02000000#32, 0x472C4400#32]).sr ≠ tiny.sr ∧
      (after tiny [0x50000045#32, 0#32]).slots ≠ tiny.slots ∧ (after tiny [0x50000045#32, 0#32]).last ≠ tiny.last ∧
      (after tiny [0x03000000#32]).draws ≠ tiny.draws ∧ exec .nop tiny = .next tiny := by
  refine ⟨?_, ?_, ?_, ?_, rfl⟩ <;> decide +kernel

/-- RESET, a note taken and a note released, each from a state whose count it changes, and NOP. -/
theorem witness_OccupiedSlotsChangeByOne :
    let s := { tiny with slots := [some 60#7, none] }
    (exec .reset s = .next s.resetAll ∧ s.resetAll.slots ≠ s.slots) ∧
      (exec (.keyDown 64#8 0#32) s = .next (s.keyDown 64#7 0#32) ∧ (s.keyDown 64#7 0#32).slots = [some 60#7, some 64#7]) ∧
      (exec (.keyUp 60#8) s = .next (s.keyUp 60#7) ∧ (s.keyUp 60#7).slots = [none, none]) ∧
      exec .nop s = .next s ∧ Instr.nop ≠ .reset := by
  refine ⟨⟨rfl, by decide⟩, ⟨rfl, by decide⟩, ⟨rfl, by decide⟩, rfl, by decide⟩

theorem witness_BroadcastEqualsSingleCommands :
    tiny.nv ≤ 16 ∧ (Instr.paramWr 0xFF#8 0x12#8 1#32).legal tiny.nv tiny.maxModes = true ∧
      (Instr.update 0xFF#8).legal tiny.nv tiny.maxModes = true ∧
      (Instr.formantGain 0xFF#8 3#8 0#32).legal tiny.nv tiny.maxModes = true := by decide

theorem witness_RoundRobinReusesTheVacatedSlot :
    tiny.nv = 2 ∧ tiny.slots = [none, none] ∧ tiny.last = 1 ∧ { tiny with last := 0 }.last < 2 := by decide

/-- A finite sum, one that overflows, one just short of it, and a zero sum. -/
theorem witness_AdditionIsCorrectlyRounded :
    isFinite 0x7F7FFFFF#32 = true ∧ isFinite (fadd 0x7F7FFFFF#32 0x7F7FFFFF#32) = false ∧
      isFinite (fadd 0x7F7FFFFF#32 0x73000000#32) = false ∧ isFinite (fadd 0x7F7FFFFF#32 0x72FFFFFF#32) = true ∧
      units 0x3F800000#32 + units 0xBF800000#32 = 0 ∧ isInf 0x7F800000#32 = true ∧ isInf 0xFF800000#32 = true ∧
      (0x7F800000#32 : F32) ≠ 0xFF800000#32 := by decide +kernel

theorem witness_MultiplicationIsCorrectlyRounded :
    isFinite 0x7F7FFFFF#32 = true ∧ isFinite (fmul 0x7F7FFFFF#32 0x3F800001#32) = false ∧
      isFinite (fmul 0x7F7FFFFF#32 0x3F800000#32) = true ∧ isInf 0xFF800000#32 = true ∧ units 0x80000000#32 = 0 ∧
      isFinite 0x00000001#32 = true ∧ units 0x00000001#32 ≠ 0 := by decide +kernel

theorem witness_DivisionIsCorrectlyRounded :
    isFinite 0x7F7FFFFF#32 = true ∧ units 0x3F7FFFFF#32 ≠ 0 ∧ isFinite (fdiv 0x7F7FFFFF#32 0x3F7FFFFF#32) = false ∧
      isFinite (fdiv 0x7F7FFFFF#32 0x3F800000#32) = true ∧ isFinite 0x80000000#32 = true ∧ units 0x80000000#32 = 0 ∧
      units 0x00000001#32 ≠ 0 ∧ isInf 0x7F800000#32 = true ∧ isInf 0xFF800000#32 = true := by decide +kernel

theorem witness_NaNResultsAreCanonical :
    isNaN 0x7F800001#32 = true ∧ isNaN (fsub 0x7F800000#32 0x7F800000#32) = true := by decide +kernel

theorem witness_ComparisonsOrderExactValues :
    isFinite 0xFF7FFFFF#32 = true ∧ isFinite 0x80000000#32 = true ∧ isNaN 0x7F800000#32 = false ∧
      isNaN 0xFF800000#32 = false ∧ isNaN 0xFFFFFFFF#32 = true := by decide

theorem witness_SpecialValuesOfTheFunctions :
    fle 0x00000000#32 0x80000000#32 = true ∧ flt 0x80000000#32 0x3F800000#32 = true ∧
      fle 0x00000000#32 0x3F7FFFFF#32 = true ∧ flt 0x3F7FFFFF#32 0x3F800000#32 = true ∧
      isFinite 0x80000001#32 = true ∧ flt 0x80000001#32 0x00000000#32 = true ∧ isFinite 0x3F000000#32 = true ∧
      ¬ (2 ^ 149 : Int) ∣ units 0x3F000000#32 ∧ isNaN 0x7FC00000#32 = true ∧ isInf 0xFF800000#32 = true ∧
      (0x00000001#32 : F32) ≠ 0x00000000#32 ∧ (0x00000001#32 : F32) ≠ 0x80000000#32 ∧
      (0x3F800001#32 : F32) ≠ 0x3F800000#32 := by decide +kernel

/-- PH-3's phasor, and the least one; infinite ones of either sign; a NaN phase and a NaN increment. -/
theorem witness_PhaseStaysInRange :
    (∀ ph ∈ [(⟨0x3F7FFFFF#32, 0#32, 0x3F7FFFFF#32⟩ : Phasor), ⟨0#32, 0#32, 0#32⟩],
      isInf ph.freq = false ∧ fle C.zero ph.phase = true ∧ flt ph.phase C.one = true ∧ fle C.zero ph.inc = true ∧
        flt ph.inc C.one = true) ∧
      (∀ ph ∈ [(⟨0#32, 0x7F800000#32, 0x7F800000#32⟩ : Phasor), ⟨0#32, 0xFF800000#32, 0xFF800000#32⟩],
        isInf ph.freq = true ∧ isInf ph.inc = true) ∧
      isNaN (⟨qnan, 0#32, 0#32⟩ : Phasor).phase = true ∧ isNaN (⟨0#32, qnan, qnan⟩ : Phasor).inc = true := by
  decide +kernel

theorem witness_ReleaseReachesRest :
    ∀ e ∈ [(⟨.release, C.one, C.half, 0x33800000#32⟩ : Envelope), ⟨.release, 0#32, C.half, 0x7F800000#32⟩],
      e.state = .release ∧ inUnit e.value = true ∧ fle 0x33800000#32 e.rinc = true := by decide +kernel

/-- A sum of exactly 1, and NaN, from Attack; the other three states. -/
theorem witness_AttackEndsAtOne :
    (⟨.attack, C.half, C.half, C.half⟩ : Envelope).state = .attack ∧ fge (fadd C.half C.half) C.one = true ∧
      fge (fadd C.half qnan) C.one = false ∧ (⟨.rest, 0#32, C.half, C.half⟩ : Envelope).state = .rest ∧
      (⟨.hold, C.one, C.half, C.half⟩ : Envelope).state = .hold ∧
      (⟨.release, C.half, C.half, C.half⟩ : Envelope).state = .release := by decide +kernel

theorem witness_DegenerateBiquadsAreSilent :
    isFinite 0x00000001#32 = true ∧ flt C.zero 0x00000001#32 = true ∧ isFinite C.n48000 = true ∧
      flt C.zero C.n48000 = true := by decide +kernel

/-- RS-4, RS-7 and +0 are out of range, RS-5 is not. -/
theorem witness_OutOfRangeResonatorIsMuted :
    flt 0x46BB8000#32 (fmul C.n48000 C.half) = false ∧ flt C.zero qnan = false ∧ flt C.zero 0x00000000#32 = false ∧
      flt C.zero 0x46BB7FFF#32 = true ∧ flt 0x46BB7FFF#32 (fmul C.n48000 C.half) = true ∧
      Resonator.atReset.play = false ∧ (ringing.res.getD 0 Resonator.atReset).play = true := by decide +kernel

/-- S-6 with exponent 0: two raw frequencies, 440 and 500 Hz, above a fold point of 300. -/
theorem witness_FoldbackReflectsAndReverses :
    let x : Voice := { flatVoice with
      noteFreq := C.n440, p := { Params.atReset with exponent := 0#32, foldMode := .foldback, foldPoint := f32OfNat 300 } }
    let y : Voice := { x with noteFreq := f32OfNat 500 }
    let raw : Voice → F32 := fun v =>
      fmul v.noteFreq (pow32 (fmul (f32OfNat 1) (fadd C.one (fmul (f32OfNat 0) v.p.inharm))) v.p.exponent)
    flatVoice.p.foldMode = .nyquistStop ∧
      ({ flatVoice with p := { flatVoice.p with foldMode := .undertones } } : Voice).p.foldMode = .undertones ∧
      x.p.foldMode = .foldback ∧ y.p.foldMode = .foldback ∧ x.p.foldPoint = y.p.foldPoint ∧
      isFinite (fmul C.two x.p.foldPoint) = true ∧ flt x.p.foldPoint (raw x) = true ∧ fle (raw x) (raw y) = true := by
  decide +kernel

theorem witness_ReferencePitchGainAndDistance : isNaN 0x7F800001#32 = true ∧ 0 ≤ 257 ∧ 257 ≤ 257 := by decide

theorem witness_NoiseIsBoundedAndOnlyHeardUnderNoise : flatVoice.p.excKind ≠ .noise := by decide

theorem witness_ResetValuesOfTheTable : tiny = State.resetWith 2 8 := rfl

/-- The least and the greatest rate, and the patterns just outside them. -/
theorem witness_SetSrDerivesEveryRateValue :
    (0 < (0x00000001#32).toNat ∧ (0x00000001#32).toNat < 0x7F800000) ∧
      (0 < (0x7F7FFFFF#32).toNat ∧ (0x7F7FFFFF#32).toNat < 0x7F800000) ∧
      ¬(0 < (0x00000000#32).toNat ∧ (0x00000000#32).toNat < 0x7F800000) ∧
      ¬(0 < (0x7F800000#32).toNat ∧ (0x7F800000#32).toNat < 0x7F800000) := by decide

/-- An inactive resonator that plays, an active one that is muted, and an active one that plays. -/
theorem witness_VoiceTickFrame :
    let x : Voice := { ringing with res := ringing.res.set 1 (ringing.res.getD 0 Resonator.atReset) }
    (∃ r, x.res[1]? = some r ∧ x.p.modeCount.toNat ≤ 1) ∧ (∃ r, flatVoice.res[0]? = some r ∧ r.play = false) ∧
      (∃ r, x.res[0]? = some r ∧ r.play = true) :=
  ⟨⟨_, rfl, by decide⟩, ⟨_, rfl, rfl⟩, ⟨_, rfl, rfl⟩⟩

/-- The ringing voice's raw and formant sums are finite, and its velocity is zero. -/
theorem witness_VoiceOutputIsBlendTimesSquaredVelocity :
    (bankTick C.zero ringing.p.modeCount.toNat C.zero ringing.res).1 = C.half ∧
      isFinite (fadd (fmul (fsub C.one ringing.p.fmtMix) C.half)
        (fmul ringing.p.fmtMix (ringing.fmt.tick ringing.p.fmtArch C.half).1)) = true ∧
      units ringing.velocity = 0 ∧ ringing.p.fmtArch = .parallel ∧
      ({ ringing with p := { ringing.p with fmtArch := .cascade } } : Voice).p.fmtArch = .cascade := by decide +kernel

theorem witness_ApplyUpdatesDirtyVoices :
    (∀ x ∈ tiny.voices, x.dirty = false) ∧ exec .apply tiny = .next (after tiny [0x04000000#32]) := by
  refine ⟨by decide, rfl⟩

theorem witness_ReadStatusEmitsIllAndDirty : (1 ≤ 1 ∧ 1 ≤ 15) ∧ (1 ≤ 15 ∧ 15 ≤ 15) ∧ 0 < 16 ∧ 15 < 16 := by decide

/-- MODE_COUNT at both ends of its range, and the last voice. -/
theorem witness_ParamWrModeClass :
    (1 ≤ (1#32).toNat ∧ (1#32).toNat ≤ tiny.maxModes) ∧ (1 ≤ (8#32).toNat ∧ (8#32).toNat ≤ tiny.maxModes) ∧
      1#8 ≠ 0xFF#8 ∧ (1#8).toNat < tiny.nv := by decide

theorem witness_ParamWrNowClass : 0#8 ≠ 0xFF#8 ∧ (0#8).toNat < tiny.nv ∧ (1#8).toNat < tiny.nv := by decide

theorem witness_VowelDesignsFourBands :
    C.one = fadd 0x3F800000#32 (fmul flatVoice.p.fmtLen 0x3F000000#32) := by decide +kernel

theorem witness_ParamWrEnumerations : 1#8 ≠ 0xFF#8 ∧ (1#8).toNat < tiny.nv := by decide

theorem witness_ParamWrRefusalsInOrder :
    (¬((2#8).toNat < tiny.nv ∨ 2#8 = 0xFF#8) ∧ ¬((0xFE#8).toNat < tiny.nv ∨ 0xFE#8 = 0xFF#8)) ∧
      (((1#8).toNat < tiny.nv ∨ 1#8 = 0xFF#8) ∧ ((0xFF#8).toNat < tiny.nv ∨ 0xFF#8 = 0xFF#8) ∧ 0x12 < (0x13#8).toNat) ∧
      (¬(1 ≤ (0#32).toNat ∧ (0#32).toNat ≤ tiny.maxModes) ∧ ¬(1 ≤ (9#32).toNat ∧ (9#32).toNat ≤ tiny.maxModes)) ∧
      2 < (3#32).toNat ∧ 4 < (5#32).toNat ∧ 1 < (2#32).toNat := by decide

/-- A voice that exists, under each arm, and the first that does not. -/
theorem witness_VoiceOnStartsOneVoice :
    (1#8).toNat < tiny.nv ∧ tiny.nv ≤ (2#8).toNat ∧ flatVoice.p.excKind = .impulse ∧
      ({ flatVoice with p := { flatVoice.p with excKind := .noise } } : Voice).p.excKind ≠ .impulse ∧
      Voice.update C.n48000 { flatVoice with noteFreq := C.one, velocity := C.half } =
        Voice.update C.n48000 { flatVoice with noteFreq := C.one, velocity := C.half } := by
  refine ⟨by decide, by decide, by decide, by decide, rfl⟩

theorem witness_VoiceOffReleasesOneVoice : (1#8).toNat < tiny.nv ∧ tiny.nv ≤ (2#8).toNat := by decide

theorem witness_UpdateRecomputesTheModes :
    1#8 ≠ 0xFF#8 ∧ (1#8).toNat < tiny.nv ∧ tiny.nv ≤ (0xFE#8).toNat ∧ 0xFE#8 ≠ 0xFF#8 ∧ tiny.nv ≤ (2#8).toNat := by decide

/-- The last voice and mode, the first voice that does not exist, the first mode that does not. -/
theorem witness_ResSetWritesOneResonator :
    ((1#8).toNat < tiny.nv ∧ (7#8).toNat < tiny.maxModes) ∧ tiny.nv ≤ (2#8).toNat ∧ tiny.maxModes ≤ (8#8).toNat := by
  decide

theorem witness_ResPingSetsTheDelayState :
    ((1#8).toNat < tiny.nv ∧ (7#8).toNat < tiny.maxModes) ∧ tiny.nv ≤ (2#8).toNat ∧ tiny.maxModes ≤ (8#8).toNat := by
  decide

theorem witness_BiqDesignWritesOneBand :
    ((1#8).toNat < tiny.nv ∧ (3#8).toNat < 4) ∧ tiny.nv ≤ (2#8).toNat ∧ 4 ≤ (4#8).toNat ∧ 7 ≤ (7#8).toNat := by decide

theorem witness_FormantGainWritesOneBand :
    ((3#8).toNat < 4 ∧ 1#8 ≠ 0xFF#8 ∧ (1#8).toNat < tiny.nv) ∧
      ¬(((1#8).toNat < tiny.nv ∨ 1#8 = 0xFF#8) ∧ (4#8).toNat < 4) ∧
      ¬(((2#8).toNat < tiny.nv ∨ 2#8 = 0xFF#8) ∧ (3#8).toNat < 4) := by decide

/-- The first slot after the cursor free, only the last of the scan free, none free, and the two edges of the notes. -/
theorem witness_KeyDownTakesTheFirstFreeSlot :
    (127#8).toNat < 128 ∧ 128 ≤ (128#8).toNat ∧
      tiny.slots[(tiny.last + 1) % tiny.nv]? = some none ∧ 1 ≤ tiny.nv ∧
      (let s := { tiny with slots := [some 1#7, none] }
       s.slots[(s.last + 2) % s.nv]? = some none ∧ 2 ≤ s.nv ∧ s.slots[(s.last + 1) % s.nv]? ≠ some none) ∧
      (let s := { tiny with slots := [some 1#7, some 2#7] }
       s.slots[(s.last + 1) % s.nv]? ≠ some none ∧ s.slots[(s.last + 2) % s.nv]? ≠ some none) := by decide

/-- The lowest slot, a later one with the note also lower free, and a note that no slot holds. -/
theorem witness_KeyUpFreesTheLowestSlot :
    (127#8).toNat < 128 ∧ 128 ≤ (128#8).toNat ∧
      (let s := { tiny with slots := [none, some 127#7] }
       s.slots[1]? = some (some ((127#8).setWidth 7)) ∧ s.slots[0]? ≠ some (some ((127#8).setWidth 7))) ∧
      ∀ k : Nat, tiny.slots[k]? ≠ some (some ((127#8).setWidth 7)) := by
  refine ⟨by decide, by decide, by decide, fun k h => ?_⟩
  have := List.eq_of_mem_replicate (List.mem_of_getElem? h)
  cases this

theorem witness_ReadSlotReportsTheNote :
    (let s := { tiny with slots := [none, some 127#7] }
     (0#8).toNat < s.nv ∧ s.slots[(0#8).toNat]? = some none ∧ (1#8).toNat < s.nv ∧
      s.slots[(1#8).toNat]? = some (some 127#7)) ∧
      tiny.nv ≤ (2#8).toNat := by decide

end Sys2Proof.Tests
end

section
/-! SUPPORT. What the decoder and one step answer on the words at the front of the command port (R41, R42, R59, R147). -/

namespace Sys2Proof

/-- The command word alone fixes the length of its command (R59, R63). -/
theorem Instr.operandCountOf_commandWord (i : Instr) : operandCountOf i.commandWord = i.operands.length := by
  simp [operandCountOf, Instr.opcField_commandWord, Instr.operands_length]

/-- R42, whatever the fields V, I and A hold: the decoder looks at them only behind its test of the length. -/
theorem decode_waiting_of_short {w : Word} {ops : List Word} (h : ops.length < operandCountOf w) :
    decode (w :: ops) = .waiting := by
  unfold operandCountOf at h
  unfold decode
  split at h
  case h_1 o ho => simp only [ho, if_pos h]
  case h_2 => exact absurd h (Nat.not_lt_zero _)

theorem decode_encode_append (i : Instr) (rest : List Word) : decode (encode i ++ rest) = .command i rest := by
  have hlen := i.operands_length
  have hwhole : ¬(i.operands ++ rest).length < i.opcode.operandCount := by simp [hlen]
  simp only [encode, List.cons_append, decode, Instr.opcField_commandWord, Opcode.ofByte_code, if_neg hwhole,
    Instr.reservedClear_commandWord, if_true, List.take_left' hlen, List.drop_left' hlen, Instr.instr_commandWord]

/-- Words that need more words to be one command's are no whole command themselves (R42). -/
theorem decode_waiting_of_missing {ws missing : List Word} {i : Instr} (h : ws ++ missing = encode i)
    (hm : missing ≠ []) : decode ws = .waiting := by
  cases ws with
  | nil => rfl
  | cons w ops =>
    obtain ⟨rfl, hops⟩ : w = i.commandWord ∧ ops ++ missing = i.operands := List.cons.inj h
    apply decode_waiting_of_short
    have hpos := List.length_pos_iff.mpr hm
    rw [Instr.operandCountOf_commandWord, ← hops, List.length_append]
    omega

namespace Machine

theorem step_of_waiting {s : State} (h : decode s.cmd = .waiting) : step s = .next s := by
  simp only [step, h]

theorem step_of_command {s : State} {i : Instr} {rest : List Word} (h : decode s.cmd = .command i rest) :
    step s = exec i { s with cmd := rest } := by
  simp only [step, h]

/-- R42: once the words that were missing have arrived the command runs, and the words after it stay on the port. -/
theorem step_receive_missing {s : State} {i : Instr} {missing : List Word} (h : s.cmd ++ missing = encode i)
    (rest : List Word) : step (s.receive (missing ++ rest)) = exec i { s with cmd := rest } := by
  have hport : decode (s.receive (missing ++ rest)).cmd = .command i rest := by
    rw [State.receive_cmd, ← List.append_assoc, h, decode_encode_append]
  exact step_of_command hport

/-- Settles O7: a port that holds no whole command decodes to `waiting`, and a completed one to its command. -/
theorem commandWaitsForItsLastWord : Obligations.CommandWaitsForItsLastWord := by
  intro s
  refine ⟨fun hempty => ?_, fun w ops hcmd hshort => ?_, fun i missing rest henc => ⟨fun hm => ?_, ?_⟩⟩
  · exact step_of_waiting (by rw [hempty]; rfl)
  · exact step_of_waiting (by rw [hcmd]; exact decode_waiting_of_short hshort)
  · exact step_of_waiting (decode_waiting_of_missing henc hm)
  · exact step_receive_missing henc rest

end Machine
end Sys2Proof
end

section
/-! SUPPORT. The opcode map as one table (R58): a row per opcode with its byte, its zero fields as a bit mask and its
operand count, and what the decoder answers on a word of a row and on a word of none (R59, R60, R63). -/

namespace Sys2Proof

/-! ## Fields under a mask -/

theorem opcField_toNat (w : Word) : (opcField w).toNat = w.toNat / 0x1000000 := by
  simp only [opcField, BitVec.extractLsb'_toNat, Nat.shiftRight_eq_div_pow]
  omega

theorem packFields_and (o v i a o' v' i' a' : Byte) :
    packFields o v i a &&& packFields o' v' i' a' = packFields (o &&& o') (v &&& v') (i &&& i') (a &&& a') := by
  unfold packFields
  rw [BitVec.and_append (w := 24), BitVec.and_append (w := 16), BitVec.and_append (w := 8)]

theorem packFields_eq_zero_iff {o v i a : Byte} :
    packFields o v i a = 0#32 ↔ o = 0#8 ∧ v = 0#8 ∧ i = 0#8 ∧ a = 0#8 := by
  simp only [← BitVec.toNat_inj, packFields_toNat, BitVec.toNat_ofNat]
  omega

/-- The mask bits of one field: none where the opcode uses the field, all where R58 marks it `0`. -/
def fieldMask (used : Bool) : Byte := if used then 0#8 else BitVec.allOnes 8

theorem and_fieldMask_eq_zero_iff (b : Byte) (used : Bool) :
    b &&& fieldMask used = 0#8 ↔ (used || b == 0#8) = true := by
  cases used with
  | true => simp [fieldMask]
  | false =>
    have hall : b &&& fieldMask false = b := BitVec.and_allOnes
    simp [hall]

/-! ## Rows of the map -/

/-- The zero fields of an opcode as a bit mask of its command word; OPC itself is never masked. -/
def Opcode.zeroMask (o : Opcode) : Word :=
  packFields 0x00#8 (fieldMask o.usesFields.1) (fieldMask o.usesFields.2.1) (fieldMask o.usesFields.2.2)

/-- R60's check of the zero fields, field by field, is one test of the mask. -/
theorem Opcode.reservedClear_iff (o : Opcode) (w : Word) : o.reservedClear w = true ↔ w &&& o.zeroMask = 0#32 := by
  have hmask : w &&& o.zeroMask = packFields 0#8 (vField w &&& fieldMask o.usesFields.1)
      (iField w &&& fieldMask o.usesFields.2.1) (aField w &&& fieldMask o.usesFields.2.2) := by
    conv_lhs => rw [← packFields_fields w, zeroMask, packFields_and, BitVec.and_zero]
  simp only [hmask, packFields_eq_zero_iff, and_fieldMask_eq_zero_iff, reservedClear, Bool.and_eq_true, true_and,
    and_assoc]

/-- The row of an opcode in the map: its byte, its zero fields and its operand count. -/
def Opcode.mapRow (o : Opcode) : Nat × Word × Nat := (o.code.toNat, o.zeroMask, o.operandCount)

/-- The assigned opcodes in the order of the map. -/
def Opcode.all : List Opcode :=
  [.nop, .reset, .setSr, .tick, .apply, .readStatus, .clearStatus, .paramWr, .voiceOn, .voiceOff, .update, .resSet,
    .resPing, .biqDesign, .formantGain, .keyDown, .keyUp, .readSlot]

theorem Opcode.mem_all (o : Opcode) : o ∈ Opcode.all := by
  cases o <;> decide

/-- The leading byte of a word is an opcode's exactly where the decoder finds that opcode. -/
theorem Opcode.ofByte_opcField_iff {w : Word} {o : Opcode} :
    Opcode.ofByte (opcField w) = some o ↔ w.toNat / 0x1000000 = o.code.toNat := by
  rw [← opcField_toNat, BitVec.toNat_inj]
  exact ⟨fun h => (code_of_ofByte h).symm, fun h => by rw [h, ofByte_code]⟩

/-! ## The decoder by the map -/

/-- With its operand words present a word of an assigned opcode is decided by its zero fields alone, and the operand
words are consumed either way. -/
theorem decode_of_operands {w : Word} {o : Opcode} {ops : List Word} (ho : Opcode.ofByte (opcField w) = some o)
    (hn : ops.length = o.operandCount) (rest : List Word) :
    decode (w :: ops ++ rest) =
      if o.reservedClear w then .command (o.instr w ops) rest else .illegal .reservedFieldNonzero w rest := by
  have hwhole : ¬(ops ++ rest).length < o.operandCount := by simp [hn]
  simp only [List.cons_append, decode, ho, if_neg hwhole, List.take_left' hn, List.drop_left' hn]

theorem decode_of_zeroMask_clear {w : Word} {o : Opcode} {ops : List Word} (ho : Opcode.ofByte (opcField w) = some o)
    (hn : ops.length = o.operandCount) (hz : w &&& o.zeroMask = 0#32) (rest : List Word) :
    ∃ i, decode (w :: ops ++ rest) = .command i rest ∧ encode i = w :: ops := by
  have hr : o.reservedClear w = true := (o.reservedClear_iff w).mpr hz
  exact ⟨o.instr w ops, by rw [decode_of_operands ho hn, if_pos hr],
    Opcode.encode_instr (Opcode.code_of_ofByte ho) hr hn⟩

theorem decode_of_zeroMask_set {w : Word} {o : Opcode} {ops : List Word} (ho : Opcode.ofByte (opcField w) = some o)
    (hn : ops.length = o.operandCount) (hz : w &&& o.zeroMask ≠ 0#32) (rest : List Word) :
    decode (w :: ops ++ rest) = .illegal .reservedFieldNonzero w rest := by
  rw [decode_of_operands ho hn, if_neg (mt (o.reservedClear_iff w).mp hz)]

theorem decode_of_unassigned {w : Word} (h : ∀ o : Opcode, w.toNat / 0x1000000 ≠ o.code.toNat) (rest : List Word) :
    decode (w :: rest) = .illegal .unknownOpcode w rest := by
  have hnone : Opcode.ofByte (opcField w) = none :=
    Option.eq_none_iff_forall_ne_some.mpr fun o ho => h o (Opcode.ofByte_opcField_iff.mp ho)
  simp only [decode, hnone]

/-- Settles O3: the statement's rows are the rows of the opcodes, and its list of bytes their bytes. -/
theorem opcodeMapAndZeroFields : Obligations.OpcodeMapAndZeroFields := by
  intro w
  constructor
  · intro row hrow hopc ops rest hn
    obtain ⟨o, -, rfl⟩ : ∃ o ∈ Opcode.all, o.mapRow = row := List.mem_map.mp hrow
    have ho : Opcode.ofByte (opcField w) = some o := Opcode.ofByte_opcField_iff.mpr hopc
    exact ⟨fun hz => decode_of_zeroMask_clear ho hn hz rest, fun hz => decode_of_zeroMask_set ho hn hz rest⟩
  · intro hopc rest
    refine decode_of_unassigned (fun o ho => hopc ?_) rest
    have hcode : o.code.toNat ∈ Opcode.all.map (fun o => o.code.toNat) := List.mem_map_of_mem o.mem_all
    rw [ho]
    exact hcode

end Sys2Proof
end

section
/-! SUPPORT. BIQ_DESIGN (R101, R104): the checks of its three fields, its accepted and its refused form, the band it reaches,
and the designs of R93 to R100 with their constants written out. -/

namespace Sys2Proof.Machine

/-! ## The checks of the voice, band and type fields (R58) -/

theorem badVoice_of_lt {s : State} {v : Byte} (h : v.toNat < s.nv) : badVoice s v = none := if_pos h

theorem badVoice_of_le {s : State} {v : Byte} (h : s.nv ≤ v.toNat) : badVoice s v = some .badVoice :=
  if_neg (Nat.not_lt.mpr h)

theorem badBand_of_lt {b : Byte} (h : b.toNat < 4) : badBand b = none := if_pos h

theorem badBand_of_le {b : Byte} (h : 4 ≤ b.toNat) : badBand b = some .badBand := if_neg (Nat.not_lt.mpr h)

theorem badBiquadType_of_ofByte {t : Byte} {bt : BiquadType} (h : BiquadType.ofByte t = some bt) :
    badBiquadType t = none := by
  have hlt : t.toNat < 7 := by simpa [h] using BiquadType.ofByte_isSome t
  exact if_pos hlt

theorem badBiquadType_of_le {t : Byte} (h : 7 ≤ t.toNat) : badBiquadType t = some .badBiquadType :=
  if_neg (Nat.not_lt.mpr h)

/-- The codes of the biquad types (R26). -/
def BiquadType.codes : List (Byte × BiquadType) :=
  [(0#8, .lpf), (1#8, .hpf), (2#8, .apf), (3#8, .bpfCsg), (4#8, .bpfCpg), (5#8, .notch), (6#8, .stkNotch)]

theorem BiquadType.ofByte_of_mem_codes : ∀ row ∈ codes, ofByte row.1 = some row.2 := by decide

/-! ## Reaching one band -/

/-- The band that a byte names, field by field; a byte above 3 names none. -/
theorem Formant.onBand_toNat (b : Byte) (f : Band → Band) (m : Formant) :
    m.onBand b.toNat f =
      { b0 := if b = 0#8 then f m.b0 else m.b0
        b1 := if b = 1#8 then f m.b1 else m.b1
        b2 := if b = 2#8 then f m.b2 else m.b2
        b3 := if b = 3#8 then f m.b3 else m.b3 } := by
  simp only [← BitVec.toNat_inj]
  unfold Formant.onBand
  split <;> simp_all

/-! ## The two ways BIQ_DESIGN ends (R104) -/

theorem exec_biqDesign (v b t : Byte) (fc q : F32) (s : State) :
    exec (.biqDesign v b t fc q) s = execBiqDesign v b t fc q s := rfl

theorem exec_biqDesign_accepted {s : State} {v b t : Byte} {bt : BiquadType} (fc q : F32) (hv : v.toNat < s.nv)
    (hb : b.toNat < 4) (ht : BiquadType.ofByte t = some bt) :
    exec (.biqDesign v b t fc q) s =
      .next (s.onVoice v.toNat (Voice.onBand b.toNat (Band.design s.sr bt fc q))) := by
  simp [exec_biqDesign, execBiqDesign, badVoice_of_lt hv, badBand_of_lt hb, badBiquadType_of_ofByte ht, ht]

/-- The first check that fails gives the reason, in the order voice, band, type (R60). -/
theorem biqDesign_checks {s : State} {v b t : Byte} (h : s.nv ≤ v.toNat ∨ 4 ≤ b.toNat ∨ 7 ≤ t.toNat) :
    (badVoice s v <|> badBand b <|> badBiquadType t) =
      some (if s.nv ≤ v.toNat then .badVoice else if 4 ≤ b.toNat then .badBand else .badBiquadType) := by
  by_cases hv : s.nv ≤ v.toNat
  · simp [badVoice_of_le hv, hv]
  by_cases hb : 4 ≤ b.toNat
  · simp [badVoice_of_lt (Nat.lt_of_not_le hv), badBand_of_le hb, hv, hb]
  · have ht : 7 ≤ t.toNat := (h.resolve_left hv).resolve_left hb
    simp [badVoice_of_lt (Nat.lt_of_not_le hv), badBand_of_lt (Nat.lt_of_not_le hb), badBiquadType_of_le ht, hv, hb]

/-- Only BAD_VALUE records an operand (R157). -/
theorem illInfoOf_of_ne_badValue {r : IllReason} (i : Instr) (h : r ≠ .badValue) :
    illInfoOf i r = { reason := r, word := i.commandWord, operand := none } := by
  simp [illInfoOf, h]

theorem exec_biqDesign_refused {s : State} {v b t : Byte} (fc q : F32)
    (h : s.nv ≤ v.toNat ∨ 4 ≤ b.toNat ∨ 7 ≤ t.toNat) :
    exec (.biqDesign v b t fc q) s = .next (s.raiseIll
      { reason := if s.nv ≤ v.toNat then .badVoice else if 4 ≤ b.toNat then .badBand else .badBiquadType
        word := (Instr.biqDesign v b t fc q).commandWord, operand := none }) := by
  rw [exec_biqDesign, execBiqDesign, biqDesign_checks h, runCommand_some, illInfoOf_of_ne_badValue]
  split_ifs <;> decide

/-! ## The designs with their constants written out (R93 to R100) -/

theorem fneg_eq_xor (x : F32) : fneg x = x ^^^ 0x80000000#32 := by unfold fneg; rfl

/-- The denominator that R94 to R99 share, and any numerator, divided by `a0` (R101). -/
theorem normalized_of_alpha (b0 b1 b2 cs alpha : F32) :
    RawCoeffs.normalized { b0 := b0, b1 := b1, b2 := b2, a0 := fadd C.one alpha, a1 := fmul C.negTwo cs,
                           a2 := fsub C.one alpha } =
      { nb0 := fdiv b0 (fadd 0x3F800000#32 alpha), nb1 := fdiv b1 (fadd 0x3F800000#32 alpha)
        nb2 := fdiv b2 (fadd 0x3F800000#32 alpha)
        na1 := fdiv (fmul 0xC0000000#32 cs) (fadd 0x3F800000#32 alpha)
        na2 := fdiv (fsub 0x3F800000#32 alpha) (fadd 0x3F800000#32 alpha) } := rfl

/-- R100: the gain takes `1 + |z1|`, the sign of `z1` decided by R13's comparison. -/
theorem rawStkNotch_eq (cs q : F32) :
    let z1 := fmul (fmul 0xC0000000#32 q) cs
    let g := fdiv 0x3F800000#32
      (fadd (if flt 0x00000000#32 z1 = true then fadd 0x3F800000#32 z1 else fsub 0x3F800000#32 z1) (fmul q q))
    rawStkNotch cs q =
      { b0 := g, b1 := fmul z1 g, b2 := fmul (fmul q q) g, a0 := 0x3F800000#32, a1 := 0x00000000#32
        a2 := 0x00000000#32 } := by
  intro z1 g
  have hgain : g = if fgt z1 C.zero then fdiv C.one (fadd (fadd C.one z1) (fmul q q))
      else fdiv C.one (fadd (fsub C.one z1) (fmul q q)) :=
    apply_ite (fun d => fdiv C.one (fadd d (fmul q q))) (fgt z1 C.zero = true) _ _
  rw [hgain]
  rfl

end Sys2Proof.Machine

namespace Sys2Proof

open Machine

/-- Settles O56: the accepted form reaches the band by its byte, a refusal records the first failing field, and six designs
are one denominator under different numerators, of the Q or the bandwidth `alpha`; STK_NOTCH has its own gain. -/
theorem biqDesignWritesOneBand : Obligations.BiqDesignWritesOneBand := by
  intro s v b t fc q
  refine ⟨rfl, fun hv hb row hrow ht => ?accepted, fun h => exec_biqDesign_refused fc q h, ?coefficients⟩
  case accepted =>
    subst ht
    have hbt : BiquadType.ofByte row.1 = some row.2 := BiquadType.ofByte_of_mem_codes row hrow
    rw [exec_biqDesign_accepted fc q hv hb hbt]
    unfold State.onVoice Voice.onBand
    simp only [Formant.onBand_toNat]
    rfl
  case coefficients =>
    rintro w0 cs sn aq abw z1 g rfl rfl rfl rfl rfl rfl rfl
    refine ⟨congrArg RawCoeffs.normalized (rawStkNotch_eq _ q), ?_⟩
    simp only [List.forall_mem_cons, ← fneg_eq_xor]
    refine ⟨?lpf, ?hpf, ?apf, ?bpfCsg, ?bpfCpg, ?notch, List.forall_mem_nil _⟩
    case lpf => exact normalized_of_alpha _ _ _ _ (bqAlphaQ _ q)
    case hpf => exact normalized_of_alpha _ _ _ _ (bqAlphaQ _ q)
    case apf => exact normalized_of_alpha _ _ _ _ (bqAlphaQ _ q)
    case bpfCsg => exact normalized_of_alpha _ _ _ _ (bqAlphaQ _ q)
    case bpfCpg => exact normalized_of_alpha _ _ _ _ (bqAlphaBw (bqOmega s.sr fc) _ q)
    case notch => exact normalized_of_alpha _ _ _ _ (bqAlphaBw (bqOmega s.sr fc) _ q)

end Sys2Proof
end

section
/-! SUPPORT. The refusal of a command word with a zero field set, once for every opcode (R58, R60, R159). -/

namespace Sys2Proof.Machine

/-- A refusal by the decoder consumes the words it names, sets STATUS.ILL and records the command word (R157, R159). -/
theorem step_of_illegal {s : State} {r : IllReason} {w : Word} {rest : List Word}
    (h : decode s.cmd = .illegal r w rest) :
    step s = .next (State.raiseIll { reason := r, word := w, operand := none } { s with cmd := rest }) := by
  simp only [step, h]

theorem zeroFieldsChecked_zeroMask (o : Opcode) : ZeroFieldsChecked o.code.toNat o.zeroMask o.operandCount := by
  intro s w ops rest hcmd hopc hmask hlen
  have hillegal : decode s.cmd = .illegal .reservedFieldNonzero w rest := by
    rw [hcmd]
    exact decode_of_zeroMask_set (Opcode.ofByte_opcField_iff.mpr hopc) hlen hmask rest
  exact step_of_illegal hillegal

end Sys2Proof.Machine
end

section
/-! SUPPORT. RES_SET and RES_PING (R112, R113): the checks of their two fields, their accepted and their refused forms. -/

namespace Sys2Proof.Machine

/-! ## The checks of the voice and mode fields (R58) -/

theorem badMode_of_lt {s : State} {m : Byte} (h : m.toNat < s.maxModes) : badMode s m = none := if_pos h

theorem badMode_of_le {s : State} {m : Byte} (h : s.maxModes ≤ m.toNat) : badMode s m = some .badModeIndex :=
  if_neg (Nat.not_lt.mpr h)

theorem resonatorChecks_of_lt {s : State} {v m : Byte} (hv : v.toNat < s.nv) (hm : m.toNat < s.maxModes) :
    (badVoice s v <|> badMode s m) = none := by
  simp [badVoice_of_lt hv, badMode_of_lt hm]

/-- A bad voice is refused before a bad mode (R60). -/
theorem resonatorChecks_of_le {s : State} {v m : Byte} (h : s.nv ≤ v.toNat ∨ s.maxModes ≤ m.toNat) :
    (badVoice s v <|> badMode s m) = some (if s.nv ≤ v.toNat then .badVoice else .badModeIndex) := by
  by_cases hv : s.nv ≤ v.toNat
  · simp [badVoice_of_le hv, hv]
  · simp [badVoice_of_lt (Nat.lt_of_not_le hv), badMode_of_le (h.resolve_left hv), hv]

/-! ## The resonator after them (R106, R107, R110) -/

/-- R107 with R106's mute bit and coefficient written out; the delay state is not among the fields. -/
theorem Resonator.setParams_eq (sr f a d : F32) :
    Resonator.setParams sr f a d = fun r => { r with
      freq := f, amp := a, decay := d
      play := flt C.zero f && flt f (fmul sr C.half)
      cr := fmul (pow32 0x3A83126F#32 (fdiv C.one (fmul d sr))) (cos32 (fdiv (fmul 0x40C90FDB#32 f) sr))
      ci := fmul (pow32 0x3A83126F#32 (fdiv C.one (fmul d sr))) (sin32 (fdiv (fmul 0x40C90FDB#32 f) sr)) } := rfl

theorem Resonator.ping_eq : Resonator.ping = fun r => { r with yr := r.amp, yi := 0x00000000#32 } := rfl

/-! ## The two ways RES_SET and RES_PING end (R112, R113) -/

section
variable {s : State} {v m : Byte}

theorem runCommand_resonator_accepted (i : Instr) (effect : State) (hv : v.toNat < s.nv) (hm : m.toNat < s.maxModes) :
    runCommand i (badVoice s v <|> badMode s m) s effect = .next effect := by
  rw [resonatorChecks_of_lt hv hm, runCommand_none]

/-- Neither reason records an operand (R157). -/
theorem runCommand_resonator_refused (i : Instr) (effect : State) (h : s.nv ≤ v.toNat ∨ s.maxModes ≤ m.toNat) :
    runCommand i (badVoice s v <|> badMode s m) s effect = .next (s.raiseIll
      { reason := if s.nv ≤ v.toNat then .badVoice else .badModeIndex
        word := i.commandWord, operand := none }) := by
  rw [resonatorChecks_of_le h, runCommand_some, illInfoOf_of_ne_badValue]
  split_ifs <;> decide

theorem exec_resSet_accepted (f a d : F32) (hv : v.toNat < s.nv) (hm : m.toNat < s.maxModes) :
    exec (.resSet v m f a d) s =
      .next (s.onVoice v.toNat (Voice.onRes m.toNat (Resonator.setParams s.sr f a d))) :=
  runCommand_resonator_accepted _ _ hv hm

theorem exec_resSet_refused (f a d : F32) (h : s.nv ≤ v.toNat ∨ s.maxModes ≤ m.toNat) :
    exec (.resSet v m f a d) s = .next (s.raiseIll
      { reason := if s.nv ≤ v.toNat then .badVoice else .badModeIndex
        word := (Instr.resSet v m f a d).commandWord, operand := none }) :=
  runCommand_resonator_refused _ _ h

theorem exec_resPing_accepted (hv : v.toNat < s.nv) (hm : m.toNat < s.maxModes) :
    exec (.resPing v m) s = .next (s.onVoice v.toNat (Voice.onRes m.toNat Resonator.ping)) :=
  runCommand_resonator_accepted _ _ hv hm

theorem exec_resPing_refused (h : s.nv ≤ v.toNat ∨ s.maxModes ≤ m.toNat) :
    exec (.resPing v m) s = .next (s.raiseIll
      { reason := if s.nv ≤ v.toNat then .badVoice else .badModeIndex
        word := (Instr.resPing v m).commandWord, operand := none }) :=
  runCommand_resonator_refused _ _ h

end

end Sys2Proof.Machine

namespace Sys2Proof

open Machine

/-- Settles O54: the accepted form reaches the one resonator, whose new mute bit and coefficient are those of R106 written
out; a refusal records the first failing field. -/
theorem resSetWritesOneResonator : Obligations.ResSetWritesOneResonator := by
  intro s v m f a d
  refine ⟨rfl, zeroFieldsChecked_zeroMask .resSet, fun hv hm => ?_, exec_resSet_refused f a d⟩
  rw [exec_resSet_accepted f a d hv hm, Resonator.setParams_eq]
  rfl

/-- Settles O55: the accepted form reaches the one resonator whatever its lane or its mute bit, for the command reads
neither; a refusal records the first failing field. -/
theorem resPingSetsTheDelayState : Obligations.ResPingSetsTheDelayState := by
  intro s v m
  refine ⟨rfl, zeroFieldsChecked_zeroMask .resPing, fun hv hm => ?_, exec_resPing_refused⟩
  rw [exec_resPing_accepted hv hm, Resonator.ping_eq]
  rfl

end Sys2Proof
end

section
/-! SUPPORT. VOICE_ON and VOICE_OFF (R126, R127): the check of their one field, their accepted and their refused forms, and
what note on leaves of the voice it reaches (R119). -/

namespace Sys2Proof.Machine

/-! ## The voice after note on (R119) -/

/-- The Impulse arm, with R110's ping and R35's active lanes written out. -/
theorem Voice.pingActive_eq (y : Voice) : y.pingActive = { y with
    res := y.res.mapIdx fun m r =>
      if m < y.p.modeCount.toNat then { r with yr := r.amp, yi := 0x00000000#32 } else r } := rfl

theorem Voice.noteOn_of_impulse {x : Voice} (h : x.p.excKind = .impulse) (sr f vel : F32) :
    x.noteOn sr f vel = (Voice.update sr { x with noteFreq := f, velocity := vel }).pingActive := by
  rw [noteOn_eq]
  exact if_pos h

/-- The coefficient update does not write the envelope, so the value kept is the one before the command. -/
theorem Voice.noteOn_of_ne_impulse {x : Voice} (h : x.p.excKind ≠ .impulse) (sr f vel : F32) :
    x.noteOn sr f vel = { Voice.update sr { x with noteFreq := f, velocity := vel } with
      env := { x.env with state := .attack } } := by
  rw [noteOn_eq]
  exact if_neg h

/-! ## The two ways VOICE_ON and VOICE_OFF end (R126, R127) -/

section
variable {s : State} {v : Byte}

theorem runCommand_voice_accepted (i : Instr) (effect : State) (hv : v.toNat < s.nv) :
    runCommand i (badVoice s v) s effect = .next effect := by
  rw [badVoice_of_lt hv, runCommand_none]

theorem runCommand_voice_refused (i : Instr) (effect : State) (hv : s.nv ≤ v.toNat) :
    runCommand i (badVoice s v) s effect =
      .next (s.raiseIll { reason := .badVoice, word := i.commandWord, operand := none }) := by
  rw [badVoice_of_le hv, runCommand_some, illInfoOf_of_ne_badValue i (by decide)]

theorem exec_voiceOn_accepted (freq vel : F32) (hv : v.toNat < s.nv) :
    exec (.voiceOn v freq vel) s = .next (s.onVoice v.toNat (Voice.noteOn s.sr freq vel)) :=
  runCommand_voice_accepted _ _ hv

theorem exec_voiceOn_refused (freq vel : F32) (hv : s.nv ≤ v.toNat) :
    exec (.voiceOn v freq vel) s = .next (s.raiseIll
      { reason := .badVoice, word := (Instr.voiceOn v freq vel).commandWord, operand := none }) :=
  runCommand_voice_refused _ _ hv

theorem exec_voiceOff_accepted (hv : v.toNat < s.nv) :
    exec (.voiceOff v) s = .next (s.onVoice v.toNat Voice.noteOff) :=
  runCommand_voice_accepted _ _ hv

theorem exec_voiceOff_refused (hv : s.nv ≤ v.toNat) :
    exec (.voiceOff v) s = .next (s.raiseIll
      { reason := .badVoice, word := (Instr.voiceOff v).commandWord, operand := none }) :=
  runCommand_voice_refused _ _ hv

end

end Sys2Proof.Machine

namespace Sys2Proof

open Machine

/-- Settles O51: the function that reaches voice `v` is note on, whose two arms are told apart by the exciter kind that the
voice had before the command. -/
theorem voiceOnStartsOneVoice : Obligations.VoiceOnStartsOneVoice := by
  intro s v freq vel
  refine ⟨rfl, zeroFieldsChecked_zeroMask .voiceOn, fun hv => ?accepted, exec_voiceOn_refused freq vel⟩
  case accepted =>
    refine ⟨Voice.noteOn s.sr freq vel, exec_voiceOn_accepted freq vel hv, ?_⟩
    rintro x y rfl
    constructor
    · intro himpulse
      rw [Voice.noteOn_of_impulse himpulse, Voice.pingActive_eq]
    · intro hother
      rw [Voice.noteOn_of_ne_impulse hother]

/-- Settles O52: the function that reaches voice `v` is note off, which leaves the voice as it is under Impulse and under an
AR envelope. -/
theorem voiceOffReleasesOneVoice : Obligations.VoiceOffReleasesOneVoice := by
  intro s v
  refine ⟨rfl, zeroFieldsChecked_zeroMask .voiceOff, fun hv => ?accepted, exec_voiceOff_refused⟩
  case accepted =>
    rw [exec_voiceOff_accepted hv, funext Voice.noteOff_eq]
    rfl

end Sys2Proof
end

section
/-! SUPPORT. The formant filter's two writers (R131 to R137): what a vowel write designs, and FORMANT_GAIN with the check of a
field that names one voice or all, its targets, its accepted and its refused form. -/

namespace Sys2Proof.Machine

/-! ## The design of one band (R101, R131, R132) -/

/-- R101: the history of the filter and the gains of the band are not among the fields written. -/
theorem Band.design_eq (sr : F32) (t : BiquadType) (fc q : F32) (n : Band) :
    n.design sr t fc q =
      { n with filter := { n.filter with bt := t, fc := fc, q := q, co := (bqRaw sr t fc q).normalized } } := rfl

theorem throatRatio_eq (p : Params) : throatRatio p = fadd 0x3F800000#32 (fmul p.fmtLen 0x3F000000#32) := rfl

/-! ## The field `v/all` (R58) -/

theorem badTarget_of_names {s : State} {v : Byte} (h : v.toNat < s.nv ∨ v = 0xFF#8) : badTarget s v = none := if_pos h

theorem badTarget_of_not_names {s : State} {v : Byte} (h : ¬(v.toNat < s.nv ∨ v = 0xFF#8)) :
    badTarget s v = some .badVoice := if_neg h

theorem State.onTargets_of_ne {v : Byte} (h : v ≠ 0xFF#8) (f : Voice → Voice) (s : State) :
    s.onTargets v f = s.onVoice v.toNat f := if_neg h

theorem State.onTargets_all (f : Voice → Voice) (s : State) : s.onTargets 0xFF#8 f = s.onAll f := if_pos rfl

/-! ## The band after FORMANT_GAIN (R134) -/

/-- R134 with R133's conversion written out. -/
theorem Band.setGain_eq (gain : F32) : Band.setGain gain = fun n =>
    { n with gainDb := gain, gainLin := pow32 0x41200000#32 (fdiv gain 0x41A00000#32) } := rfl

theorem Voice.onBand_toNat (b : Byte) (f : Band → Band) : Voice.onBand b.toNat f = fun x => { x with
    fmt :=
      { b0 := if b = 0#8 then f x.fmt.b0 else x.fmt.b0
        b1 := if b = 1#8 then f x.fmt.b1 else x.fmt.b1
        b2 := if b = 2#8 then f x.fmt.b2 else x.fmt.b2
        b3 := if b = 3#8 then f x.fmt.b3 else x.fmt.b3 } } :=
  funext fun x => congrArg (fun m => { x with fmt := m }) (Formant.onBand_toNat b f x.fmt)

/-! ## The two ways FORMANT_GAIN ends (R137) -/

theorem exec_formantGain (v b : Byte) (gain : F32) (s : State) :
    exec (.formantGain v b gain) s = execFormantGain v b gain s := rfl

theorem exec_formantGain_accepted {s : State} {v b : Byte} (gain : F32) (hv : v.toNat < s.nv ∨ v = 0xFF#8)
    (hb : b.toNat < 4) :
    exec (.formantGain v b gain) s = .next (s.onTargets v (Voice.onBand b.toNat (Band.setGain gain))) := by
  rw [exec_formantGain, execFormantGain, badTarget_of_names hv, badBand_of_lt hb]
  rfl

/-- A bad voice is refused before a bad band (R60). -/
theorem formantGain_checks {s : State} {v b : Byte} (h : ¬((v.toNat < s.nv ∨ v = 0xFF#8) ∧ b.toNat < 4)) :
    (badTarget s v <|> badBand b) =
      some (if v.toNat < s.nv ∨ v = 0xFF#8 then .badBand else .badVoice) := by
  by_cases hv : v.toNat < s.nv ∨ v = 0xFF#8
  · have hb : 4 ≤ b.toNat := Nat.le_of_not_lt fun hlt => h ⟨hv, hlt⟩
    rw [badTarget_of_names hv, badBand_of_le hb, if_pos hv]
    rfl
  · rw [badTarget_of_not_names hv, if_neg hv]
    rfl

theorem exec_formantGain_refused {s : State} {v b : Byte} (gain : F32)
    (h : ¬((v.toNat < s.nv ∨ v = 0xFF#8) ∧ b.toNat < 4)) :
    exec (.formantGain v b gain) s = .next (s.raiseIll
      { reason := if v.toNat < s.nv ∨ v = 0xFF#8 then .badBand else .badVoice
        word := (Instr.formantGain v b gain).commandWord, operand := none }) := by
  rw [exec_formantGain, execFormantGain, formantGain_checks h, runCommand_some, illInfoOf_of_ne_badValue]
  split_ifs <;> decide

end Sys2Proof.Machine

namespace Sys2Proof

open Machine

/-- Settles O48: the filter after the write is R132's, and the factor that its four frequencies share is the throat-length
ratio of R131. -/
theorem vowelDesignsFourBands : Obligations.VowelDesignsFourBands := by
  intro x sr r hr
  obtain rfl : r = throatRatio x.p := by rw [hr, throatRatio_eq]
  refine ⟨(x.setVowel sr).fmt, rfl, ?bands⟩
  case bands =>
    simp only [List.forall_mem_cons, Voice.setVowel_fmt]
    refine ⟨?f1, ?f2, ?f3, ?f4, List.forall_mem_nil _⟩
    case f1 => exact Band.design_eq sr .bpfCpg (formantF1 x.p) _ x.fmt.b0
    case f2 => exact Band.design_eq sr .bpfCpg (formantF2 x.p) _ x.fmt.b1
    case f3 => exact Band.design_eq sr .bpfCpg (formantF3 x.p) _ x.fmt.b2
    case f4 => exact Band.design_eq sr .bpfCpg (formantF4 x.p) _ x.fmt.b3

/-- Settles O57: the accepted form writes the gains of the band that the byte names, in one voice or in all by the target
field; a refusal records the first failing field. -/
theorem formantGainWritesOneBand : Obligations.FormantGainWritesOneBand := by
  intro s v b gain set g
  have hband : Voice.onBand b.toNat (Band.setGain gain) = g := by rw [Voice.onBand_toNat, Band.setGain_eq]
  refine ⟨rfl, zeroFieldsChecked_zeroMask .formantGain, fun hb => ⟨fun hone hv => ?one, ?all⟩,
    exec_formantGain_refused gain⟩
  case one =>
    rw [exec_formantGain_accepted gain (.inl hv) hb, State.onTargets_of_ne hone, hband]
    rfl
  case all =>
    rw [exec_formantGain_accepted gain (.inr rfl) hb, State.onTargets_all, hband]
    rfl

end Sys2Proof
end

section
/-! SUPPORT. The voice controller (R139 to R144): the check of a note field, the slot that each key event reaches, the word
that reports a slot, and the accepted and refused forms of KEY_DOWN, KEY_UP and READ_SLOT. -/

namespace Sys2Proof.Machine

/-! ## The note field (R58) -/

theorem badNote_of_lt {n : Byte} (h : n.toNat < 128) : badNote n = none := if_pos h

theorem badNote_of_le {n : Byte} (h : 128 ≤ n.toNat) : badNote n = some .badNote := if_neg (Nat.not_lt.mpr h)

/-- A slot's seven bits hold the whole of a note that the check lets through. -/
theorem note_toNat {n : Byte} (h : n.toNat < 128) : (n.setWidth 7).toNat = n.toNat := by
  rw [BitVec.toNat_setWidth, Nat.mod_eq_of_lt h]

theorem runCommand_note_accepted {n : Byte} (i : Instr) (s effect : State) (hn : n.toNat < 128) :
    runCommand i (badNote n) s effect = .next effect := by
  rw [badNote_of_lt hn, runCommand_none]

theorem runCommand_note_refused {n : Byte} (i : Instr) (s effect : State) (hn : 128 ≤ n.toNat) :
    runCommand i (badNote n) s effect =
      .next (s.raiseIll { reason := .badNote, word := i.commandWord, operand := none }) := by
  rw [badNote_of_le hn, runCommand_some, illInfoOf_of_ne_badValue i (by decide)]

/-! ## The slot that a key event reaches (R140, R141) -/

/-- The scan of R140 stops at the first free one of the places 1 to `nv` after the cursor. -/
theorem freeSlot_of_first {slots : List (Option (BitVec 7))} {nv last d : Nat} (hpos : 1 ≤ d) (hle : d ≤ nv)
    (hfree : slots[(last + d) % nv]? = some none)
    (hfirst : ∀ j, 1 ≤ j → j < d → slots[(last + j) % nv]? ≠ some none) :
    freeSlot slots nv last = some ((last + d) % nv) := by
  obtain ⟨e, rfl⟩ : ∃ e, d = e + 1 := Nat.exists_eq_add_of_le' hpos
  cases hscan : freeSlot slots nv last with
  | none => exact absurd hfree (freeSlot_none hscan e hle)
  | some k =>
    obtain ⟨-, hk, e', -, rfl, hbefore⟩ := freeSlot_some hscan
    have hnotLater : ¬e < e' := fun hlt => hbefore e hlt hfree
    have hnotEarlier : ¬e' < e := fun hlt => hfirst (e' + 1) (by omega) (by omega) hk
    rw [show e' = e by omega]

theorem freeSlot_of_full {slots : List (Option (BitVec 7))} {nv last : Nat}
    (hfull : ∀ d, 1 ≤ d → d ≤ nv → slots[(last + d) % nv]? ≠ some none) : freeSlot slots nv last = none := by
  refine Option.eq_none_iff_forall_ne_some.mpr fun k hscan => ?_
  obtain ⟨-, hk, e, he, rfl, -⟩ := freeSlot_some hscan
  exact hfull (e + 1) (by omega) he hk

theorem State.keyDown_of_freeSlot {s : State} {k : Nat} (h : freeSlot s.slots s.nv s.last = some k) (n : BitVec 7)
    (vel : F32) :
    s.keyDown n vel = State.onVoice k (Voice.noteOn s.sr (midiToFreq n.toNat) vel)
      { s with slots := s.slots.set k (some n), last := k } := by
  simp only [keyDown, h]

theorem State.keyDown_of_full {s : State} (h : freeSlot s.slots s.nv s.last = none) (n : BitVec 7) (vel : F32) :
    s.keyDown n vel = s := by
  simp only [keyDown, h]

/-- R141 scans upwards, so it frees the slot below which none holds the note. -/
theorem State.keyUp_of_lowest {s : State} {n : BitVec 7} {k : Nat} (hheld : s.slots[k]? = some (some n))
    (hlowest : ∀ j, j < k → s.slots[j]? ≠ some (some n)) :
    s.keyUp n = State.onVoice k Voice.noteOff { s with slots := s.slots.set k none } := by
  obtain ⟨hk, hnote⟩ := List.getElem?_eq_some_iff.mp hheld
  have hfound : s.slots.findIdx? (· == some n) = some k := by
    refine List.findIdx?_eq_some_iff_getElem.mpr ⟨hk, beq_iff_eq.mpr hnote, fun j hj hbeq => hlowest j hj ?_⟩
    exact List.getElem?_eq_some_iff.mpr ⟨hj.trans hk, beq_iff_eq.mp hbeq⟩
  simp only [keyUp, hfound]

theorem State.keyUp_of_not_held {s : State} {n : BitVec 7} (h : ∀ k : Nat, s.slots[k]? ≠ some (some n)) :
    s.keyUp n = s := by
  have hnone : s.slots.findIdx? (· == some n) = none := by
    refine List.findIdx?_eq_none_iff.mpr fun slot hslot => beq_eq_false_iff_ne.mpr ?_
    rintro rfl
    obtain ⟨k, hk⟩ := List.mem_iff_getElem?.mp hslot
    exact h k hk
  simp only [keyUp, hnone]

/-! ## The word that reports a slot (R144) -/

theorem slotWord_none : slotWord none = 0x00000000#32 := rfl

/-- The note lies below bit 31, so the word is their sum. -/
theorem slotWord_some_toNat (n : BitVec 7) : (slotWord (some n)).toNat = 0x80000000 + n.toNat := by
  have hbelow : n.toNat < 2 ^ 31 := n.isLt.trans (by decide)
  calc (slotWord (some n)).toNat
      = 2 ^ 31 * 1 ||| n.toNat := by
        rw [slotWord, BitVec.toNat_or, BitVec.toNat_setWidth_of_le (by decide)]; rfl
    _ = 0x80000000 + n.toNat := (Nat.two_pow_add_eq_or_of_lt hbelow 1).symm

/-! ## The two ways KEY_DOWN, KEY_UP and READ_SLOT end (R142 to R144) -/

section
variable {s : State}

/-- The pitch is R139's of the number in the command word. -/
theorem exec_keyDown_free {n : Byte} {k : Nat} (vel : F32) (hn : n.toNat < 128)
    (hk : freeSlot s.slots s.nv s.last = some k) :
    exec (.keyDown n vel) s = .next (State.onVoice k (Voice.noteOn s.sr (midiToFreq n.toNat) vel)
      { s with slots := s.slots.set k (some (n.setWidth 7)), last := k }) := by
  rw [← note_toNat hn, ← State.keyDown_of_freeSlot hk]
  exact runCommand_note_accepted _ s _ hn

theorem exec_keyDown_full {n : Byte} (vel : F32) (hn : n.toNat < 128)
    (hfull : freeSlot s.slots s.nv s.last = none) : exec (.keyDown n vel) s = .next s :=
  (runCommand_note_accepted _ s _ hn).trans (congrArg _ (State.keyDown_of_full hfull _ vel))

theorem exec_keyDown_refused {n : Byte} (vel : F32) (hn : 128 ≤ n.toNat) :
    exec (.keyDown n vel) s = .next (s.raiseIll
      { reason := .badNote, word := (Instr.keyDown n vel).commandWord, operand := none }) :=
  runCommand_note_refused _ s _ hn

theorem exec_keyUp_accepted {n : Byte} (hn : n.toNat < 128) :
    exec (.keyUp n) s = .next (s.keyUp (n.setWidth 7)) :=
  runCommand_note_accepted _ s _ hn

theorem exec_keyUp_refused {n : Byte} (hn : 128 ≤ n.toNat) :
    exec (.keyUp n) s = .next (s.raiseIll
      { reason := .badNote, word := (Instr.keyUp n).commandWord, operand := none }) :=
  runCommand_note_refused _ s _ hn

theorem exec_readSlot_accepted {v : Byte} {slot : Option (BitVec 7)} (hv : v.toNat < s.nv)
    (hslot : s.slots[v.toNat]? = some slot) : exec (.readSlot v) s = .next (s.emit (slotWord slot)) := by
  have hread : s.slots.getD v.toNat none = slot := by rw [List.getD_eq_getElem?_getD, hslot, Option.getD_some]
  rw [← hread]
  exact runCommand_voice_accepted _ _ hv

theorem exec_readSlot_refused {v : Byte} (hv : s.nv ≤ v.toNat) :
    exec (.readSlot v) s = .next (s.raiseIll
      { reason := .badVoice, word := (Instr.readSlot v).commandWord, operand := none }) :=
  runCommand_voice_refused _ _ hv

end

end Sys2Proof.Machine

namespace Sys2Proof

open Machine

/-- Settles O58: the first free place after the cursor is where the scan stops, and with no free place it answers none. -/
theorem keyDownTakesTheFirstFreeSlot : Obligations.KeyDownTakesTheFirstFreeSlot := by
  intro s n vel
  refine ⟨rfl, zeroFieldsChecked_zeroMask .keyDown, fun hn => ⟨?free, ?full⟩, exec_keyDown_refused vel⟩
  case free =>
    intro d hpos hle hfree hfirst
    exact exec_keyDown_free vel hn (freeSlot_of_first hpos hle hfree hfirst)
  case full =>
    intro hfull
    exact exec_keyDown_full vel hn (freeSlot_of_full hfull)

/-- Settles O59: the slot found by the upward search is the lowest that holds the note, and the cursor is not written. -/
theorem keyUpFreesTheLowestSlot : Obligations.KeyUpFreesTheLowestSlot := by
  intro s n
  refine ⟨rfl, zeroFieldsChecked_zeroMask .keyUp, fun hn => ⟨?held, ?notHeld⟩, exec_keyUp_refused⟩
  case held =>
    intro k hheld hlowest
    rw [exec_keyUp_accepted hn, State.keyUp_of_lowest hheld hlowest]
    rfl
  case notHeld =>
    intro hnone
    rw [exec_keyUp_accepted hn, State.keyUp_of_not_held hnone]

/-- Settles O60: the accepted form emits the word of the slot read, and emitting writes the output port alone. -/
theorem readSlotReportsTheNote : Obligations.ReadSlotReportsTheNote := by
  intro s v
  refine ⟨rfl, zeroFieldsChecked_zeroMask .readSlot, fun hv => ⟨fun hfree => ?free, fun n hheld => ?occupied⟩,
    exec_readSlot_refused⟩
  case free =>
    rw [exec_readSlot_accepted hv hfree, slotWord_none]
    rfl
  case occupied => exact ⟨slotWord (some n), slotWord_some_toNat n, exec_readSlot_accepted hv hheld⟩

end Sys2Proof
end

section
/-! SUPPORT. The system commands NOP, SET_SR, APPLY and READ_STATUS (R148, R150, R152, R153): the one or two ways each ends,
the voice that a new sample rate leaves, and the bits of the STATUS word (R23). -/

namespace Sys2Proof.Machine

/-! ## NOP (R148) -/

theorem exec_nop (s : State) : exec .nop s = .next s := runCommand_none .nop s s

/-! ## The two ways SET_SR ends (R150) -/

theorem badRate_of_legal {sr : F32} (h : 0 < sr.toNat ∧ sr.toNat < 0x7F800000) : badRate sr = none :=
  (badRate_eq sr).trans (if_pos h)

theorem badRate_of_not_legal {sr : F32} (h : ¬(0 < sr.toNat ∧ sr.toNat < 0x7F800000)) : badRate sr = some .badValue :=
  (badRate_eq sr).trans (if_neg h)

/-- The rate is the operand word; the command word holds none of it (R55). -/
theorem commandWord_setSr (sr : F32) : (Instr.setSr sr).commandWord = 0x02000000#32 := by
  have hpacked : packFields 0x02#8 0x00#8 0x00#8 0x00#8 = 0x02000000#32 := by decide
  exact hpacked

theorem exec_setSr (sr : F32) (s : State) :
    exec (.setSr sr) s =
      runCommand (.setSr sr) (badRate sr) s (State.onAll (Voice.setSampleRate sr) { s with sr := sr }) := rfl

theorem exec_setSr_accepted {sr : F32} (s : State) (h : 0 < sr.toNat ∧ sr.toNat < 0x7F800000) :
    exec (.setSr sr) s = .next (State.onAll (Voice.setSampleRate sr) { s with sr := sr }) := by
  rw [exec_setSr, badRate_of_legal h, runCommand_none]

/-- BAD_VALUE is the reason that records the operand word too (R157). -/
theorem exec_setSr_refused {sr : F32} (s : State) (h : ¬(0 < sr.toNat ∧ sr.toNat < 0x7F800000)) :
    exec (.setSr sr) s = .next (s.raiseIll { reason := .badValue, word := 0x02000000#32, operand := some sr }) := by
  rw [exec_setSr, badRate_of_not_legal h, runCommand_some, ← commandWord_setSr sr]
  rfl

/-! ## The voice under a new sample rate (R67, R81, R84, R103, R108, R136) -/

theorem Phasor.setSampleRate_eq (sr : F32) (ph : Phasor) : ph.setSampleRate sr = { ph with inc := fdiv ph.freq sr } := rfl

/-- Each band is designed again from the design that it remembers. -/
theorem Formant.setSampleRate_eq (sr : F32) (m : Formant) : m.setSampleRate sr =
    { b0 := m.b0.design sr m.b0.filter.bt m.b0.filter.fc m.b0.filter.q
      b1 := m.b1.design sr m.b1.filter.bt m.b1.filter.fc m.b1.filter.q
      b2 := m.b2.design sr m.b2.filter.bt m.b2.filter.fc m.b2.filter.q
      b3 := m.b3.design sr m.b3.filter.bt m.b3.filter.fc m.b3.filter.q } := rfl

/-- R108 with R106's mute bit and coefficient written out; the delay state is not among the fields. -/
theorem Resonator.setSampleRate_eq (sr : F32) : Resonator.setSampleRate sr = fun r => { r with
    play := flt C.zero r.freq && flt r.freq (fmul sr C.half)
    cr := fmul (pow32 0x3A83126F#32 (fdiv C.one (fmul r.decay sr))) (cos32 (fdiv (fmul 0x40C90FDB#32 r.freq) sr))
    ci := fmul (pow32 0x3A83126F#32 (fdiv C.one (fmul r.decay sr))) (sin32 (fdiv (fmul 0x40C90FDB#32 r.freq) sr)) } := rfl

/-- R150 part by part: the parts named are the ones that hold a rate-dependent value. -/
theorem Voice.setSampleRate_eq (sr : F32) : Voice.setSampleRate sr = fun x => { x with
    exc := x.exc.setSampleRate sr
    chCtl := x.chCtl.setSampleRate sr
    chGen := x.chGen.setSampleRate sr
    env := { x.env with
      ainc := fdiv C.one (fmul x.p.attack sr)
      rinc := fdiv C.one (fmul x.p.release sr) }
    fmt := x.fmt.setSampleRate sr
    res := x.res.map (Resonator.setSampleRate sr) } := rfl

/-! ## APPLY (R152) -/

theorem exec_apply (s : State) :
    exec .apply s = .next (s.onAll fun x => if x.dirty then x.update s.sr else x) := rfl

/-- What APPLY makes of a voice is never dirty: it updates the dirty ones, and the others were not. -/
theorem Voice.applied_dirty (sr : F32) (x : Voice) : (if x.dirty then x.update sr else x).dirty = false := by
  split
  case isTrue => exact x.update_dirty sr
  case isFalse hclean => exact Bool.eq_false_of_not_eq_true hclean

/-- With no dirty voice APPLY maps every voice to itself. -/
theorem exec_apply_of_clean {s : State} (h : ∀ x ∈ s.voices, x.dirty = false) : exec .apply s = .next s := by
  have hsame : s.voices.map (fun x => if x.dirty then x.update s.sr else x) = s.voices.map id :=
    List.map_congr_left fun x hx => if_neg (by simp [h x hx])
  rw [exec_apply, State.onAll, hsame, List.map_id]

/-! ## The bits of the STATUS word (R23) -/

theorem exec_readStatus (s : State) : exec .readStatus s = .next (s.emit (statusWord s.ill s.voices)) := rfl

/-- The word that holds one flag in bit `k`. -/
theorem getLsbD_flag (b : Bool) (k : Nat) {j : Nat} (hj : j < 32) :
    (if b then 1#32 <<< k else 0#32).getLsbD j = (b && decide (j = k)) := by
  cases b with
  | false => simp
  | true =>
    have hplace : ¬j < k ∧ j - k = 0 ↔ j = k := by omega
    rw [if_pos rfl, BitVec.getLsbD_shiftLeft, BitVec.getLsbD_one, Bool.eq_iff_iff]
    simpa [hj] using hplace

theorem dirtyField_below (vs : List Voice) {k j : Nat} (hj : j < 32) (hk : j < k) :
    (dirtyField k vs).getLsbD j = false := by
  induction vs generalizing k with
  | nil => simp [dirtyField]
  | cons x xs ih =>
    rw [dirtyField, BitVec.getLsbD_or, getLsbD_flag _ _ hj, ih (Nat.lt_succ_of_lt hk)]
    simp [hk.ne]

/-- Bit `k + v` belongs to voice `v` alone: the voices before it lie below it and the ones after it above. -/
theorem dirtyField_getLsbD (vs : List Voice) {k v : Nat} (hv : k + v < 32) :
    (dirtyField k vs).getLsbD (k + v) = ((vs[v]?).map Voice.dirty).getD false := by
  induction vs generalizing k v with
  | nil => simp [dirtyField]
  | cons x xs ih =>
    rw [dirtyField, BitVec.getLsbD_or, getLsbD_flag _ _ hv]
    cases v with
    | zero =>
      rw [dirtyField_below xs hv (Nat.lt_succ_self k)]
      simp
    | succ v =>
      have hrest := ih (k := k + 1) (v := v) (by omega)
      rw [show k + (v + 1) = k + 1 + v by omega, hrest]
      simp [show k + 1 + v ≠ k by omega]

/-- ILL is the flag of bit 0. -/
theorem statusWord_getLsbD (ill : Bool) (vs : List Voice) {j : Nat} (hj : j < 32) :
    (statusWord ill vs).getLsbD j = ((ill && decide (j = 0)) || (dirtyField 16 vs).getLsbD j) := by
  rw [statusWord, BitVec.getLsbD_or]
  exact congrArg (· || _) (getLsbD_flag ill 0 hj)

end Sys2Proof.Machine

namespace Sys2Proof

open Machine

/-- Settles O39: the accepted form leaves each voice with the parts that hold a rate-dependent value derived again, each of
them written out; a refusal records BAD_VALUE and the rate. -/
theorem setSrDerivesEveryRateValue : Obligations.SetSrDerivesEveryRateValue := by
  intro sr s
  have hword : encode (.setSr sr) = [0x02000000#32, sr] := congrArg (· :: [sr]) (commandWord_setSr sr)
  refine ⟨hword, zeroFieldsChecked_zeroMask .setSr, fun hlegal => ?_, exec_setSr_refused s⟩
  rw [exec_setSr_accepted s hlegal, State.onAll, Voice.setSampleRate_eq]
  simp only [Phasor.setSampleRate_eq, Formant.setSampleRate_eq, Resonator.setSampleRate_eq]

/-- Settles O44: the word is the OR of the flag of ILL and the field of the DIRTY bits, which has none below bit 16. -/
theorem readStatusEmitsIllAndDirty : Obligations.ReadStatusEmitsIllAndDirty := by
  refine ⟨rfl, zeroFieldsChecked_zeroMask .readStatus, fun s => ?_⟩
  refine ⟨statusWord s.ill s.voices, exec_readStatus s, ?ill, fun k hlow hhigh => ?zeros, fun v hv => ?dirty⟩
  case ill =>
    rw [statusWord_getLsbD _ _ (by decide), dirtyField_below _ (by decide) (by decide)]
    simp
  case zeros =>
    rw [statusWord_getLsbD _ _ (by omega), dirtyField_below _ (by omega) (by omega)]
    simp [show k ≠ 0 by omega]
  case dirty =>
    rw [statusWord_getLsbD _ _ (by omega), dirtyField_getLsbD _ (by omega)]
    simp

/-- Settles O36: no check of NOP's own can refuse it, and its effect is the state that it is given. -/
theorem nopChangesNothing : Obligations.NopChangesNothing :=
  ⟨rfl, zeroFieldsChecked_zeroMask .nop, exec_nop⟩

/-- Settles O43: APPLY maps the voices one by one, the clean ones to themselves, and leaves none dirty. -/
theorem applyUpdatesDirtyVoices : Obligations.ApplyUpdatesDirtyVoices := by
  refine ⟨rfl, zeroFieldsChecked_zeroMask .apply, fun s => ⟨exec_apply s, exec_apply_of_clean, fun t ht y hy => ?_⟩⟩
  obtain rfl : s.onAll (fun x => if x.dirty then x.update s.sr else x) = t := Host.Outcome.next.inj ht
  obtain ⟨x, -, rfl⟩ := List.mem_map.mp hy
  exact x.applied_dirty s.sr

end Sys2Proof
end

section
/-! SUPPORT. Refusals as a whole (R60, R61, R159): the checks of every command against R61's legality, the two ways in
which any command ends, and the commands that clear ILL. -/

namespace Sys2Proof.Machine

/-! ## Each check against its clause of R58 and R61 -/

@[simp] theorem badVoice_eq_none_iff (s : State) (v : Byte) : badVoice s v = none ↔ voiceField s.nv v = true := by
  simp [badVoice, voiceField]

@[simp] theorem badTarget_eq_none_iff (s : State) (v : Byte) :
    badTarget s v = none ↔ voiceOrAllField s.nv v = true := by
  simp [badTarget, voiceOrAllField, or_iff_not_imp_left]

@[simp] theorem badParamId_eq_none_iff (id : Byte) : badParamId id = none ↔ id.toNat ≤ 0x12 := by
  simp [badParamId]

@[simp] theorem badMode_eq_none_iff (s : State) (m : Byte) : badMode s m = none ↔ m.toNat < s.maxModes := by
  simp [badMode]

@[simp] theorem badBand_eq_none_iff (b : Byte) : badBand b = none ↔ b.toNat < 4 := by
  simp [badBand]

@[simp] theorem badBiquadType_eq_none_iff (t : Byte) : badBiquadType t = none ↔ t.toNat < 7 := by
  simp [badBiquadType]

@[simp] theorem badNote_eq_none_iff (n : Byte) : badNote n = none ↔ n.toNat < 128 := by
  simp [badNote]

@[simp] theorem badRate_eq_none_iff (sr : F32) : badRate sr = none ↔ 0 < sr.toNat ∧ sr.toNat < 0x7F800000 := by
  simp [badRate_eq]

theorem badParamValue_eq_none_iff (s : State) (v : Byte) {id : Byte} (w : Word) (h : id.toNat ≤ 0x12) :
    badParamValue s id w = none ↔ (Instr.paramWr v id w).operandsLegal s.maxModes = true := by
  simp [badParamValue_eq s v id w h]

/-! ## The checks of a command -/

/-- The first check that refuses the command, in the order of R60 and R158; none where it runs. -/
def firstRefusal (s : State) : Instr → Option IllReason
  | .nop => none
  | .reset => none
  | .setSr sr => badRate sr
  | .tick => none
  | .apply => none
  | .readStatus => none
  | .clearStatus => none
  | .paramWr v id w => badTarget s v <|> badParamId id <|> badParamValue s id w
  | .voiceOn v _ _ => badVoice s v
  | .voiceOff v => badVoice s v
  | .update v => badTarget s v
  | .resSet v m _ _ _ => badVoice s v <|> badMode s m
  | .resPing v m => badVoice s v <|> badMode s m
  | .biqDesign v b t _ _ => badVoice s v <|> badBand b <|> badBiquadType t
  | .formantGain v b _ => badTarget s v <|> badBand b
  | .keyDown n _ => badNote n
  | .keyUp n => badNote n
  | .readSlot v => badVoice s v

/-- The machine's checks are R61's clauses one by one; the value of PARAM_WR is compared under an id that exists, for no
other id gives it a meaning. -/
theorem firstRefusal_eq_none_iff (s : State) (i : Instr) :
    firstRefusal s i = none ↔ i.legal s.nv s.maxModes = true := by
  unfold Instr.legal
  rw [Bool.and_eq_true]
  cases i with
  | paramWr v id w =>
    simp only [firstRefusal, Instr.wellFormed, Option.orElse_eq_none, badTarget_eq_none_iff, badParamId_eq_none_iff,
      Bool.and_eq_true, decide_eq_true_iff, and_assoc]
    exact and_congr_right fun _ => and_congr_right fun hid => badParamValue_eq_none_iff s v w hid
  | nop | reset | setSr | tick | apply | readStatus | clearStatus | voiceOn | voiceOff | update | resSet | resPing
    | biqDesign | formantGain | keyDown | keyUp | readSlot =>
    simp [firstRefusal, Instr.wellFormed, Instr.operandsLegal, and_assoc]

/-! ## The two ways in which any command ends (R159) -/

@[simp] theorem State.keyDown_ill (n : BitVec 7) (vel : F32) (s : State) : (s.keyDown n vel).ill = s.ill := by
  unfold State.keyDown; split <;> rfl

@[simp] theorem State.keyUp_ill (n : BitVec 7) (s : State) : (s.keyUp n).ill = s.ill := by
  unfold State.keyUp; split <;> rfl

/-- Every command is its checks and an effect, and no effect but those of CLEAR_STATUS and RESET reaches ILL. -/
theorem exec_eq_runCommand (i : Instr) (s : State) :
    ∃ effect, exec i s = runCommand i (firstRefusal s i) s effect ∧
      (i = .clearStatus ∨ i = .reset ∨ effect.ill = s.ill) := by
  cases i with
  | clearStatus => exact ⟨_, rfl, .inl rfl⟩
  | reset => exact ⟨_, rfl, .inr (.inl rfl)⟩
  | nop | setSr | tick | apply | readStatus | voiceOn | voiceOff | resSet | resPing | readSlot =>
    exact ⟨_, rfl, .inr (.inr rfl)⟩
  | update v | formantGain v => exact ⟨_, rfl, .inr (.inr (s.onTargets_ill v _))⟩
  | keyDown n vel => exact ⟨_, rfl, .inr (.inr (s.keyDown_ill _ vel))⟩
  | keyUp => exact ⟨_, rfl, .inr (.inr (s.keyUp_ill _))⟩
  | paramWr v id =>
    refine ⟨_, rfl, .inr (.inr ?_)⟩
    cases ParamId.ofByte id with
    | none => rfl
    | some p => exact s.onTargets_ill v _
  | biqDesign v b t =>
    refine ⟨_, rfl, .inr (.inr ?_)⟩
    cases BiquadType.ofByte t <;> rfl

/-- A command that is not legal raises ILL for the first check that refuses it, and does nothing else. -/
theorem exec_of_not_legal {i : Instr} {s : State} (h : i.legal s.nv s.maxModes = false) :
    ∃ r, firstRefusal s i = some r ∧ exec i s = .next (s.raiseIll (illInfoOf i r)) := by
  have hrefused : firstRefusal s i ≠ none := fun hnone => by
    rw [(firstRefusal_eq_none_iff s i).mp hnone] at h
    cases h
  obtain ⟨r, hr⟩ := Option.ne_none_iff_exists'.mp hrefused
  obtain ⟨effect, hexec, -⟩ := exec_eq_runCommand i s
  exact ⟨r, hr, by rw [hexec, hr, runCommand_some]⟩

/-! ## Who clears ILL (R149, R154, R159) -/

theorem exec_clears_ill {i : Instr} {s t : State} (h : exec i s = .next t) (hset : s.ill = true)
    (hclear : t.ill = false) : i = .clearStatus ∨ i = .reset := by
  obtain ⟨effect, hexec, hkeeps⟩ := exec_eq_runCommand i s
  rw [hexec] at h
  obtain ⟨r, -, rfl⟩ | ⟨-, rfl⟩ := runCommand_cases h
  · simp at hclear
  · rw [← or_assoc] at hkeeps
    exact hkeeps.resolve_right (by simp [hset, hclear])

/-- Waiting keeps ILL and a refusal by the decoder sets it, so a step that clears it runs a command that does. -/
theorem step_clears_ill {s t : State} (h : step s = .next t) (hset : s.ill = true) (hclear : t.ill = false) :
    ∃ rest, decode s.cmd = .command .clearStatus rest ∨ decode s.cmd = .command .reset rest := by
  cases hdecode : decode s.cmd with
  | waiting =>
    obtain rfl : s = t := Host.Outcome.next.inj ((step_of_waiting hdecode).symm.trans h)
    simp [hset] at hclear
  | illegal r w rest =>
    obtain rfl := Host.Outcome.next.inj ((step_of_illegal hdecode).symm.trans h)
    simp at hclear
  | command i rest =>
    rw [step_of_command hdecode] at h
    exact ⟨rest, (exec_clears_ill h hset hclear).imp (congrArg (Decoded.command · rest))
      (congrArg (Decoded.command · rest))⟩

end Sys2Proof.Machine

namespace Sys2Proof

open Machine

/-- Settles O9: the decoder's refusals and those of the commands end alike, in `raiseIll` with the words consumed, and
of the effects only those of CLEAR_STATUS and RESET reach ILL. -/
theorem refusalIsPrecise : Obligations.RefusalIsPrecise := by
  intro s
  refine ⟨fun r w rest => step_of_illegal, fun i rest hdecode hillegal => ?_, fun t => step_clears_ill⟩
  obtain ⟨r, -, hexec⟩ := exec_of_not_legal (s := { s with cmd := rest }) hillegal
  exact ⟨illInfoOf i r, rfl, (step_of_command hdecode).trans hexec⟩

end Sys2Proof
end

section
/-! SUPPORT. The reset state (R177): the STATUS word of an engine with no dirty voice, and the patterns of the reset values
that R176 computes: the envelope's increments and the four centre frequencies of the formant filter. -/

namespace Sys2Proof.Machine

/-! ## The STATUS word of clean voices (R23) -/

theorem dirtyField_of_clean {vs : List Voice} (h : ∀ x ∈ vs, x.dirty = false) (k : Nat) : dirtyField k vs = 0#32 := by
  induction vs generalizing k with
  | nil => rfl
  | cons x xs ih =>
    obtain ⟨hx, hxs⟩ := List.forall_mem_cons.mp h
    simp [dirtyField, hx, ih hxs]

theorem statusWord_of_clean {vs : List Voice} (h : ∀ x ∈ vs, x.dirty = false) : statusWord false vs = 0#32 := by
  simp [statusWord, dirtyField_of_clean h]

/-! ## The computed reset values (R176) -/

theorem envIncrement_attack_atReset : envIncrement C.n48000 Params.atReset.attack = 0x3B088889#32 := by decide +kernel

theorem envIncrement_release_atReset : envIncrement C.n48000 Params.atReset.release = 0x382EC33E#32 := by decide +kernel

/-- At throat length +0 the ratio of R131 is one, so the four frequencies below are its constants themselves. -/
theorem throatRatio_atReset : throatRatio Params.atReset = C.one := by decide +kernel

theorem formantF1_atReset : formantF1 Params.atReset = 0x43870000#32 := by
  rw [formantF1, throatRatio_atReset]
  decide +kernel

theorem formantF2_atReset : formantF2 Params.atReset = 0x44520000#32 := by
  rw [formantF2, throatRatio_atReset]
  decide +kernel

theorem formantF3_atReset : formantF3 Params.atReset = 0x44D34000#32 := by
  rw [formantF3, throatRatio_atReset]
  decide +kernel

theorem formantF4_atReset : formantF4 Params.atReset = 0x455AC000#32 := by
  rw [formantF4, throatRatio_atReset]
  decide +kernel

theorem Voice.atReset_env (mm : Nat) :
    (Voice.atReset C.n48000 mm).env =
      { state := .rest, value := 0x00000000#32, ainc := 0x3B088889#32, rinc := 0x382EC33E#32 } := by
  rw [← envIncrement_attack_atReset, ← envIncrement_release_atReset]
  rfl

theorem Voice.atReset_fmt (mm : Nat) :
    (Voice.atReset C.n48000 mm).fmt =
      { b0 := Band.atReset C.n48000 0x43870000#32
        b1 := Band.atReset C.n48000 0x44520000#32
        b2 := Band.atReset C.n48000 0x44D34000#32
        b3 := Band.atReset C.n48000 0x455AC000#32 } := by
  rw [← formantF1_atReset, ← formantF2_atReset, ← formantF3_atReset, ← formantF4_atReset]
  rfl

/-- The fields of R33 and R34 in one band, at any centre frequency. -/
theorem Band.atReset_fields {n : Band} {fc : F32} (h : n = Band.atReset C.n48000 fc) :
    n.gainDb = 0x00000000#32 ∧ n.gainLin = 0x3F800000#32 ∧ n.filter.bt = .bpfCpg ∧ n.filter.q = 0x3DCCCCCD#32 ∧
      n.filter.fc = fc ∧ n.filter.co = (bqRaw 0x473B8000#32 .bpfCpg fc 0x3DCCCCCD#32).normalized ∧
      n.filter.x1 = 0#32 ∧ n.filter.x2 = 0#32 ∧ n.filter.y1 = 0#32 ∧ n.filter.y2 = 0#32 := by
  subst h
  exact ⟨rfl, rfl, rfl, rfl, rfl, rfl, rfl, rfl, rfl, rfl⟩

end Sys2Proof.Machine

namespace Sys2Proof

open Machine

/-- Settles O38: every voice is `Voice.atReset` at 48000, whose copied values are the table's constants and whose computed
ones are the lemmas above; the STATUS word is zero because none of these voices is dirty. -/
theorem resetValuesOfTheTable : Obligations.ResetValuesOfTheTable := by
  rintro nv mm _ rfl
  have hvoice : ∀ x ∈ (State.resetWith nv mm).voices, x = Voice.atReset C.n48000 mm :=
    fun x => List.eq_of_mem_replicate
  have hclean : ∀ x ∈ (State.resetWith nv mm).voices, x.dirty = false := fun x hx => by rw [hvoice x hx]; rfl
  refine ⟨rfl, rfl, statusWord_of_clean hclean, List.length_replicate, fun c => List.eq_of_mem_replicate, rfl,
    List.length_replicate, fun x hx => ?voice⟩
  case voice =>
    obtain rfl := hvoice x hx
    refine ⟨rfl, rfl, rfl, rfl, List.length_replicate, fun r => List.eq_of_mem_replicate, rfl, rfl, rfl,
      Voice.atReset_env mm, ?bands⟩
    case bands =>
      rw [Voice.atReset_fmt]
      simp only [List.forall_mem_cons]
      exact ⟨Band.atReset_fields rfl, Band.atReset_fields rfl, Band.atReset_fields rfl, Band.atReset_fields rfl,
        List.forall_mem_nil _⟩

end Sys2Proof
end

section
/-! SUPPORT. The encoding both ways and the step as a whole: what the decoder takes for a command (R54 to R60), the bytes of
both ports (R44, R45), the printed example words, and the next state that every step answers (R147, R166). -/

namespace Sys2Proof

/-- The decoder answers a command only behind its three tests: an assigned opcode, all operand words, clear zero fields. -/
theorem decode_eq_command {ws : List Word} {i : Instr} {rest : List Word} (h : decode ws = .command i rest) :
    ∃ (o : Opcode) (w : Word) (ops : List Word), o.code = opcField w ∧ o.reservedClear w = true ∧
      ops.length = o.operandCount ∧ i = o.instr w ops ∧ ws = w :: (ops ++ rest) := by
  cases ws with
  | nil => cases h
  | cons w tail =>
    cases ho : Opcode.ofByte (opcField w) with
    | none => simp [decode, ho] at h
    | some o =>
      simp only [decode, ho] at h
      split_ifs at h with hshort hclear
      cases h
      have hwhole : o.operandCount ≤ tail.length := Nat.le_of_not_lt hshort
      exact ⟨o, w, tail.take o.operandCount, Opcode.code_of_ofByte ho, hclear, List.length_take_of_le hwhole, rfl,
        by rw [List.take_append_drop]⟩

theorem eq_encode_append_of_decode {ws : List Word} {i : Instr} {rest : List Word}
    (h : decode ws = .command i rest) : ws = encode i ++ rest := by
  obtain ⟨o, w, ops, hcode, hclear, hlen, rfl, rfl⟩ := decode_eq_command h
  rw [Opcode.encode_instr hcode hclear hlen, List.cons_append]

/-- Settles O1: the decoder's three tests pass on a command's own words, and its reading of them is the command. -/
theorem decodeOfEncodeIsTheCommand : Obligations.DecodeOfEncodeIsTheCommand := decode_encode_append

/-- Settles O2: behind the decoder's tests the words read are those that the encoder writes. -/
theorem decodedWordsAreTheEncoding : Obligations.DecodedWordsAreTheEncoding := fun _ _ _ => eq_encode_append_of_decode

/-- Settles O4: each printed line is the encoding of its command. -/
theorem printedWordsDecode : Obligations.PrintedWordsDecode := by
  have hprinted (i : Instr) {ws : List Word} (h : encode i = ws) : decode ws = .command i [] := by
    rw [← h, ← decode_encode_append i [], List.append_nil]
  refine ⟨hprinted _ ?_, hprinted _ ?_, hprinted _ ?_, hprinted _ ?_, hprinted _ ?_, hprinted _ ?_, hprinted _ ?_,
    hprinted _ ?_, hprinted _ ?_, hprinted _ ?_⟩ <;> decide

/-! ## Bytes (R44, R45) -/

theorem wordsOfBytes_of_short {bs : List Byte} (h : bs.length < 4) : wordsOfBytes bs = [] := by
  match bs, h with
  | [], _ => rfl
  | [_], _ => rfl
  | [_, _], _ => rfl
  | [_, _, _], _ => rfl

/-- Settles O5: a word is its four bytes put together again, and the bytes of the output port are those of its words. -/
theorem bytesArriveLeastSignificantFirst : Obligations.BytesArriveLeastSignificantFirst := by
  refine ⟨fun w bs => ⟨?arrive, wordsOfBytes_of_short⟩, fun s bs => rfl, fun s w => ⟨s.emit_outBytes w, ?empty, ?back⟩⟩
  case arrive => exact congrArg (· :: wordsOfBytes bs) (wordOfBytes_extract w)
  case empty =>
    intro hout
    rw [Machine.State.outBytes, hout, bytesOfWords_nil]
  case back => exact wordsOfBytes_bytesOfWords s.out

/-! ## The step as a whole (R147, R166) -/

/-- Settles O6: the case of a decoded command in the step. -/
theorem stepRunsTheDecodedCommand : Obligations.StepRunsTheDecodedCommand := fun _ _ _ => Machine.step_of_command

/-- Every command answers a next state, for it ends in ILL or in its effect. -/
theorem Machine.exec_next (i : Instr) (s : Machine.State) : ∃ t, Machine.exec i s = .next t := by
  obtain ⟨effect, hexec, -⟩ := Machine.exec_eq_runCommand i s
  exact ⟨_, hexec⟩

/-- Settles O8: waiting, a refusal by the decoder and a command each answer a next state. -/
theorem everyStepHasANextState : Obligations.EveryStepHasANextState := by
  intro s
  cases hdecode : decode s.cmd with
  | waiting => exact ⟨s, Machine.step_of_waiting hdecode⟩
  | illegal r w rest => exact ⟨_, Machine.step_of_illegal hdecode⟩
  | command i rest =>
    rw [Machine.step_of_command hdecode]
    exact Machine.exec_next i _

end Sys2Proof
end

section
/-! SUPPORT. What every command can do to the machine outside the voices, once (R24, R43, R124, R146, R149 to R154): the
shapes of a state after a command, and the statements on who emits, who writes the shared registers and who refuses. -/

namespace Sys2Proof.Machine

/-! ## The shapes of a state after a command -/

/-- The opcodes that write voices and nothing else. -/
def writesVoicesOnly : Opcode → Bool
  | .nop | .apply | .paramWr | .voiceOn | .voiceOff | .update | .resSet | .resPing | .biqDesign | .formantGain => true
  | .reset | .setSr | .tick | .readStatus | .clearStatus | .keyDown | .keyUp | .readSlot => false

/-- The state that a command which no check refuses leaves, field by field outside the voices, whose number is kept. -/
inductive Effect (s : State) : Instr → State → Prop
  | voices (i : Instr) (vs : List Voice) (hi : writesVoicesOnly i.opcode = true) (hvs : vs.length = s.voices.length) :
      Effect s i { s with voices := vs }
  | reset : Effect s .reset s.resetAll
  | rate (sr : F32) (vs : List Voice) (hvs : vs.length = s.voices.length) :
      Effect s (.setSr sr) { s with sr := sr, voices := vs }
  | sample (w : Word) (vs : List Voice) (hvs : vs.length = s.voices.length) :
      Effect s .tick { s with voices := vs, draws := s.draws + s.nv, out := s.out ++ [w] }
  | status (w : Word) : Effect s .readStatus (s.emit w)
  | clear : Effect s .clearStatus { s with ill := false }
  | slot (v : Byte) (w : Word) : Effect s (.readSlot v) (s.emit w)
  | noteDropped (n : Byte) (vel : F32) : Effect s (.keyDown n vel) s
  | noteTaken (n : Byte) (vel : F32) (k : Nat) (note : BitVec 7) (vs : List Voice) (hk : k < s.nv)
      (hfree : s.slots[k]? = some none) (hvs : vs.length = s.voices.length) :
      Effect s (.keyDown n vel) { s with voices := vs, slots := s.slots.set k (some note), last := k }
  | noteUnmatched (n : Byte) : Effect s (.keyUp n) s
  | noteFreed (n : Byte) (k : Nat) (note : BitVec 7) (vs : List Voice) (hheld : s.slots[k]? = some (some note))
      (hvs : vs.length = s.voices.length) :
      Effect s (.keyUp n) { s with voices := vs, slots := s.slots.set k none }

theorem Effect.onVoice {s : State} {i : Instr} (hi : writesVoicesOnly i.opcode = true) (v : Nat) (f : Voice → Voice) :
    Effect s i (s.onVoice v f) :=
  .voices i _ hi (List.length_modify _ _ _)

theorem Effect.onAll {s : State} {i : Instr} (hi : writesVoicesOnly i.opcode = true) (f : Voice → Voice) :
    Effect s i (s.onAll f) :=
  .voices i _ hi (List.length_map f)

theorem Effect.onTargets {s : State} {i : Instr} (hi : writesVoicesOnly i.opcode = true) (v : Byte) (f : Voice → Voice) :
    Effect s i (s.onTargets v f) := by
  unfold State.onTargets
  split
  · exact .onAll hi f
  · exact .onVoice hi v.toNat f

theorem Effect.unchanged {s : State} {i : Instr} (hi : writesVoicesOnly i.opcode = true) : Effect s i s :=
  .voices i s.voices hi rfl

theorem Effect.keyDown (s : State) (n : Byte) (vel : F32) (note : BitVec 7) :
    Effect s (.keyDown n vel) (s.keyDown note vel) := by
  cases hscan : freeSlot s.slots s.nv s.last with
  | none =>
    rw [State.keyDown_of_full hscan]
    exact .noteDropped n vel
  | some k =>
    obtain ⟨hk, hfree, -⟩ := freeSlot_some hscan
    rw [State.keyDown_of_freeSlot hscan]
    exact .noteTaken n vel k note _ hk hfree (List.length_modify _ _ _)

theorem Effect.keyUp (s : State) (n : Byte) (note : BitVec 7) : Effect s (.keyUp n) (s.keyUp note) := by
  unfold State.keyUp
  split
  case h_1 k hfound =>
    obtain ⟨hk, hbeq, -⟩ := List.findIdx?_eq_some_iff_getElem.mp hfound
    have hheld : s.slots[k]? = some (some note) := List.getElem?_eq_some_iff.mpr ⟨hk, beq_iff_eq.mp hbeq⟩
    exact .noteFreed n k note _ hheld (List.length_modify _ _ _)
  case h_2 => exact .noteUnmatched n

/-- Every command is its checks and one of these effects. -/
theorem exec_eq_effect (i : Instr) (s : State) :
    ∃ e, exec i s = runCommand i (firstRefusal s i) s e ∧ Effect s i e := by
  cases i with
  | nop => exact ⟨_, rfl, .unchanged rfl⟩
  | reset => exact ⟨_, rfl, .reset⟩
  | setSr sr => exact ⟨_, rfl, .rate sr _ (List.length_map _)⟩
  | tick => exact ⟨_, rfl, .sample _ _ (tickVoices_length _ _ _ _)⟩
  | apply => exact ⟨_, rfl, .onAll rfl _⟩
  | readStatus => exact ⟨_, rfl, .status _⟩
  | clearStatus => exact ⟨_, rfl, .clear⟩
  | paramWr v id w =>
    refine ⟨_, rfl, ?_⟩
    cases ParamId.ofByte id with
    | none => exact .unchanged rfl
    | some p => exact .onTargets rfl v _
  | voiceOn v freq vel => exact ⟨_, rfl, .onVoice rfl _ _⟩
  | voiceOff v => exact ⟨_, rfl, .onVoice rfl _ _⟩
  | update v => exact ⟨_, rfl, .onTargets rfl v _⟩
  | resSet v m freq amp decay => exact ⟨_, rfl, .onVoice rfl _ _⟩
  | resPing v m => exact ⟨_, rfl, .onVoice rfl _ _⟩
  | biqDesign v b t fc q =>
    refine ⟨_, rfl, ?_⟩
    cases BiquadType.ofByte t with
    | none => exact .unchanged rfl
    | some bt => exact .onVoice rfl _ _
  | formantGain v b g => exact ⟨_, rfl, .onTargets rfl v _⟩
  | keyDown n vel => exact ⟨_, rfl, .keyDown s n vel _⟩
  | keyUp n => exact ⟨_, rfl, .keyUp s n _⟩
  | readSlot v => exact ⟨_, rfl, .slot v _⟩

/-- A command is legal and has its effect, or raises ILL for the first check that refuses it and does nothing else. -/
theorem exec_cases {i : Instr} {s t : State} (h : exec i s = .next t) :
    (i.legal s.nv s.maxModes = true ∧ Effect s i t) ∨
      (i.legal s.nv s.maxModes = false ∧ ∃ r, firstRefusal s i = some r ∧ t = s.raiseIll (illInfoOf i r)) := by
  obtain ⟨e, hexec, heffect⟩ := exec_eq_effect i s
  rw [hexec] at h
  obtain ⟨r, hr, rfl⟩ | ⟨hnone, rfl⟩ := runCommand_cases h
  · refine .inr ⟨Bool.eq_false_of_not_eq_true fun hlegal => ?_, r, hr, rfl⟩
    rw [(firstRefusal_eq_none_iff s i).mpr hlegal] at hr
    cases hr
  · exact .inl ⟨(firstRefusal_eq_none_iff s i).mp hnone, heffect⟩

/-! ## Refusals against legality (R60, R61, R157) -/

/-- The answer of a check, or of checks in their order, is none of the decoder's two reasons. -/
def AfterDecoder (o : Option IllReason) : Prop := ∀ r, o = some r → 3 ≤ r.code

theorem AfterDecoder.none : AfterDecoder none := by
  rintro r ⟨⟩

theorem AfterDecoder.check {p : Prop} [Decidable p] {r : IllReason} (h : 3 ≤ r.code) :
    AfterDecoder (if p then Option.none else some r) := by
  intro r' hr'
  split at hr'
  · cases hr'
  · cases hr'; exact h

theorem AfterDecoder.orElse {o o' : Option IllReason} (h : AfterDecoder o) (h' : AfterDecoder o') :
    AfterDecoder (o <|> o') := by
  cases o with
  | none => exact h'
  | some r => exact h

theorem AfterDecoder.badTarget (s : State) (v : Byte) : AfterDecoder (badTarget s v) := .check (by decide)

theorem AfterDecoder.badVoice (s : State) (v : Byte) : AfterDecoder (badVoice s v) := .check (by decide)

theorem AfterDecoder.badParamValue (s : State) (id : Byte) (w : Word) : AfterDecoder (badParamValue s id w) := by
  unfold Machine.badParamValue
  split
  · exact .check (by decide)
  · exact .none

theorem AfterDecoder.firstRefusal (s : State) (i : Instr) : AfterDecoder (firstRefusal s i) := by
  cases i with
  | nop | reset | tick | apply | readStatus | clearStatus => exact .none
  | setSr | keyDown | keyUp => exact .check (by decide)
  | paramWr v id w => exact .orElse (.badTarget s v) (.orElse (.check (by decide)) (.badParamValue s id w))
  | update v => exact .badTarget s v
  | voiceOn v | voiceOff v | readSlot v => exact .badVoice s v
  | resSet v | resPing v => exact .orElse (.badVoice s v) (.check (by decide))
  | biqDesign v => exact .orElse (.badVoice s v) (.orElse (.check (by decide)) (.check (by decide)))
  | formantGain v => exact .orElse (.badTarget s v) (.check (by decide))

/-- No effect sets ILL, and only that of RESET writes the record of the last refusal. -/
theorem Effect.ill_illInfo {s t : State} {i : Instr} (h : Effect s i t) :
    (t.ill = true → s.ill = true) ∧ (t.illInfo = s.illInfo ∨ i = .reset) := by
  cases h with
  | reset => exact ⟨fun hill => absurd hill Bool.false_ne_true, .inr rfl⟩
  | clear => exact ⟨fun hill => absurd hill Bool.false_ne_true, .inl rfl⟩
  | voices | rate | sample | status | slot | noteDropped | noteTaken | noteUnmatched | noteFreed => exact ⟨id, .inl rfl⟩

/-! ## Who writes and who emits (R24, R43, R124, R146) -/

theorem Effect.out {s t : State} {i : Instr} (h : Effect s i t) :
    (i.opcode = .tick ∨ i.opcode = .readStatus ∨ i.opcode = .readSlot) ∧ (∃ w, t.out = s.out ++ [w]) ∨
      ¬(i.opcode = .tick ∨ i.opcode = .readStatus ∨ i.opcode = .readSlot) ∧ t.out = s.out := by
  cases h with
  | sample w | status w | slot v w => exact .inl ⟨by simp [Instr.opcode], w, rfl⟩
  | voices _ vs hi =>
    refine .inr ⟨?_, rfl⟩
    rintro (ho | ho | ho) <;> rw [ho] at hi <;> cases hi
  | reset | rate | clear | noteDropped | noteTaken | noteUnmatched | noteFreed => exact .inr ⟨by simp [Instr.opcode], rfl⟩

/-- The shared registers that each effect leaves alone, told by the opcode. -/
theorem Effect.shared {s t : State} {i : Instr} (h : Effect s i t) :
    (t.sr ≠ s.sr → i.opcode = .setSr ∨ i.opcode = .reset) ∧
      (t.slots ≠ s.slots ∨ t.last ≠ s.last → i.opcode = .keyDown ∨ i.opcode = .keyUp ∨ i.opcode = .reset) ∧
      (t.draws ≠ s.draws → i.opcode = .tick) ∧ t.cmd = s.cmd ∧ t.nv = s.nv := by
  cases h with
  | reset => simp [Instr.opcode]
  | rate sr vs hvs | sample w vs hvs | voices _ vs hi hvs | noteTaken n vel k note vs hk hfree hvs
    | noteFreed n k note vs hheld hvs => simp [Instr.opcode, State.nv, hvs]
  | status | clear | slot | noteDropped | noteUnmatched => simp [Instr.opcode, State.nv]

theorem occupied_set_some {slots : List (Option (BitVec 7))} {k : Nat} (n : BitVec 7) (h : slots[k]? = some none) :
    (slots.set k (some n)).countP Option.isSome = slots.countP Option.isSome + 1 := by
  obtain ⟨hk, hnone⟩ := List.getElem?_eq_some_iff.mp h
  rw [List.countP_set hk]
  simp [hnone]

theorem occupied_set_none {slots : List (Option (BitVec 7))} {k : Nat} {n : BitVec 7} (h : slots[k]? = some (some n)) :
    (slots.set k none).countP Option.isSome + 1 = slots.countP Option.isSome := by
  obtain ⟨hk, hsome⟩ := List.getElem?_eq_some_iff.mp h
  have hpos : 0 < slots.countP Option.isSome :=
    List.countP_pos_iff.mpr ⟨slots[k], List.getElem_mem hk, by rw [hsome]; rfl⟩
  rw [List.countP_set hk]
  simp [hsome]
  omega

end Sys2Proof.Machine

namespace Sys2Proof

open Machine

/-- Settles O10: a command is its checks, which are R61's clauses, and an effect; no effect sets ILL. -/
theorem refusedExactlyWhenIllegal : Obligations.RefusedExactlyWhenIllegal := by
  intro i s
  refine ⟨fun hillegal => ?refused, fun hlegal => ?accepted⟩
  case refused =>
    obtain ⟨r, hr, hexec⟩ := exec_of_not_legal hillegal
    exact ⟨r, AfterDecoder.firstRefusal s i r hr, hexec⟩
  case accepted =>
    obtain ⟨t, ht⟩ := exec_next i s
    obtain ⟨-, heffect⟩ | ⟨hillegal, -⟩ := exec_cases ht
    · exact ⟨t, ht, heffect.ill_illInfo⟩
    · rw [hlegal] at hillegal
      cases hillegal

/-- Settles O15: of the effects those of the three commands append a word, and a refusal keeps the output port. -/
theorem onlyThreeCommandsEmit : Obligations.OnlyThreeCommandsEmit := by
  intro i s t h
  obtain ⟨hlegal, heffect⟩ | ⟨hillegal, r, -, rfl⟩ := exec_cases h
  · obtain ⟨hemits, hout⟩ | ⟨hsilent, hout⟩ := heffect.out
    · exact ⟨fun _ => hout, fun hnot => absurd ⟨hemits, hlegal⟩ hnot⟩
    · exact ⟨fun hemits => absurd hemits.1 hsilent, fun _ => hout⟩
  · simp [hillegal]

/-- Settles O16: the effects say it opcode by opcode, and a refusal writes none of these registers. -/
theorem writersOfSharedState : Obligations.WritersOfSharedState := by
  intro i s t h
  obtain ⟨-, heffect⟩ | ⟨-, r, -, rfl⟩ := exec_cases h
  · exact heffect.shared
  · simp

/-- Settles O17: KEY_DOWN fills a slot that was free and KEY_UP frees one that was held; RESET frees all. -/
theorem occupiedSlotsChangeByOne : Obligations.OccupiedSlotsChangeByOne := by
  intro i s t h
  refine ⟨?reset, fun hi => ?other⟩
  case reset =>
    rintro rfl
    obtain rfl : s.resetAll = t := Host.Outcome.next.inj h
    simp
  case other =>
    obtain ⟨-, heffect⟩ | ⟨-, r, -, rfl⟩ := exec_cases h
    · cases heffect with
      | reset => exact absurd rfl hi
      | noteTaken n vel k note vs hk hfree => exact .inr (.inl ⟨rfl, occupied_set_some note hfree⟩)
      | noteFreed n k note vs hheld => exact .inr (.inr ⟨rfl, occupied_set_none hheld⟩)
      | voices | rate | sample | status | clear | slot | noteDropped | noteUnmatched => exact .inl rfl
    · exact .inl rfl

/-- Settles O37: the effect of RESET is the power-on state with the ports and the draw count put back. -/
theorem resetRestoresPowerOn : Obligations.ResetRestoresPowerOn := by
  refine ⟨rfl, zeroFieldsChecked_zeroMask .reset, fun s => ⟨rfl, fun x hx => ?_⟩⟩
  obtain rfl := List.eq_of_mem_replicate hx
  rfl

/-- Settles O45: no check of CLEAR_STATUS's own can refuse it, and its effect writes ILL alone. -/
theorem clearStatusClearsIll : Obligations.ClearStatusClearsIll :=
  ⟨rfl, zeroFieldsChecked_zeroMask .clearStatus, fun _ => rfl⟩

end Sys2Proof
end

section
/-! SUPPORT. The invariant of shape and legal values (R6, R7, R20, R24, R25, R32, R92, R105, R146): what each operation on a
voice keeps of it, and with that every step. -/

namespace Sys2Proof.Machine

/-! ## One step, told by its three outcomes (R42, R147, R159) -/

/-- A step waits, refuses with words consumed, or runs a command with words consumed. -/
theorem step_cases {s t : State} (h : step s = .next t) :
    t = s ∨ (∃ info rest, t = State.raiseIll info { s with cmd := rest }) ∨
      ∃ i rest, exec i { s with cmd := rest } = .next t := by
  cases hdecode : decode s.cmd with
  | waiting =>
    rw [step_of_waiting hdecode] at h
    exact .inl (Host.Outcome.next.inj h).symm
  | illegal r w rest =>
    rw [step_of_illegal hdecode] at h
    exact .inr (.inl ⟨_, rest, (Host.Outcome.next.inj h).symm⟩)
  | command i rest =>
    rw [step_of_command hdecode] at h
    exact .inr (.inr ⟨i, rest, h⟩)

/-! ## The envelope (R88, R92) -/

theorem inUnit_zero : inUnit C.zero = true := by decide +kernel

theorem inUnit_one : inUnit C.one = true := by decide +kernel

theorem inUnit_clamp01 (x : F32) : inUnit (clamp01 x) = true := by
  rw [inUnit, Bool.and_eq_true]
  exact clamp01_unit x

theorem Envelope.attackTick_eq (top : EnvState) (e : Envelope) :
    e.attackTick top =
      if fge (fadd e.value e.ainc) C.one = true then { e with value := C.one, state := top }
      else { e with value := clamp01 (fadd e.value e.ainc) } := rfl

theorem Envelope.releaseTick_eq (e : Envelope) :
    e.releaseTick =
      if fle (fsub e.value e.rinc) C.zero = true then { e with value := C.zero, state := .rest }
      else { e with value := clamp01 (fsub e.value e.rinc) } := rfl

theorem Envelope.attackTick_ok {t : EnvType} {top : EnvState} {e : Envelope} (hstate : e.state = .attack)
    (htop : top = .hold ∧ t = .ahr ∨ top = .release) : (e.attackTick top).Ok t := by
  rw [Envelope.attackTick_eq]
  split
  · rcases htop with ⟨rfl, ht⟩ | rfl
    · exact ⟨inUnit_one, nofun, fun _ => ht⟩
    · exact ⟨inUnit_one, nofun, nofun⟩
  · refine ⟨inUnit_clamp01 _, ?_, ?_⟩ <;> (intro h; cases hstate.symm.trans h)

theorem Envelope.releaseTick_ok {t : EnvType} {e : Envelope} (hstate : e.state = .release) : e.releaseTick.Ok t := by
  rw [Envelope.releaseTick_eq]
  split
  · exact ⟨inUnit_zero, fun _ => rfl, nofun⟩
  · refine ⟨inUnit_clamp01 _, ?_, ?_⟩ <;> (intro h; cases hstate.symm.trans h)

theorem Envelope.tick_ok {t : EnvType} {e : Envelope} (h : e.Ok t) : (e.tick t).Ok t := by
  unfold Envelope.tick
  cases t with
  | ahr =>
    unfold Envelope.tickAhr
    cases hstate : e.state with
    | rest | hold => exact h
    | attack => exact Envelope.attackTick_ok hstate (.inl ⟨rfl, rfl⟩)
    | release => exact Envelope.releaseTick_ok hstate
  | ar =>
    unfold Envelope.tickAr
    cases hstate : e.state with
    | rest => exact h
    | attack => exact Envelope.attackTick_ok hstate (.inr rfl)
    | hold => exact ⟨inUnit_zero, fun _ => rfl, nofun⟩
    | release => exact Envelope.releaseTick_ok hstate

theorem Envelope.reset_ok (t : EnvType) (e : Envelope) : e.reset.Ok t := ⟨inUnit_zero, fun _ => rfl, nofun⟩

/-- Attack and Release hold any value of the range. -/
theorem Envelope.withState_ok {t : EnvType} {e : Envelope} {st : EnvState} (h : e.Ok t)
    (hst : st = .attack ∨ st = .release) : Envelope.Ok t { e with state := st } := by
  obtain ⟨hunit, -, -⟩ := h
  rcases hst with rfl | rfl <;> exact ⟨hunit, nofun, nofun⟩

/-! ## The filter (R102, R105) -/

theorem Biquad.output_finite (b : Biquad) (x : F32) : isFinite (b.output x) = true := by
  unfold Biquad.output
  dsimp only
  split
  case isTrue => decide
  case isFalse h => simpa [isFinite_iff] using h

theorem Biquad.tick_ok {b : Biquad} (h : b.Ok) (x : F32) : (b.tick x).Ok := ⟨b.output_finite x, h.1⟩

/-- A tick of the formant filter keeps what a tick of any band keeps. -/
theorem Formant.all_tick {P : Band → Prop} {m : Formant} (hm : m.All P) (h : ∀ b x, P b → P (b.tick x))
    (arch : FmtArch) (x : F32) : (m.tick arch x).2.All P := by
  obtain ⟨h0, h1, h2, h3⟩ := hm
  obtain ⟨i0, i1, i2, i3, heq⟩ := m.tick_snd arch x
  rw [heq]
  exact ⟨h _ _ h0, h _ _ h1, h _ _ h2, h _ _ h3⟩

/-! ## A parameter write (R121, R125) -/

/-- What a parameter write does to the envelope, the formant filter and the parameters they are derived from: it stores some
other parameter, sets one envelope time, redesigns the filter by new vowel parameters, or resets the envelope. -/
inductive ParamWritten (sr : F32) (x : Voice) : Voice → Prop
  | stored {y : Voice} (henv : y.env = x.env) (hfmt : y.fmt = x.fmt) (hattack : y.p.attack = x.p.attack)
      (hrelease : y.p.release = x.p.release) (htype : y.p.envType = x.p.envType) : ParamWritten sr x y
  | attackSet (t : F32) : ParamWritten sr x (x.setAttack sr t)
  | releaseSet (t : F32) : ParamWritten sr x (x.setRelease sr t)
  | vowelSet (p : Params) (hattack : p.attack = x.p.attack) (hrelease : p.release = x.p.release)
      (htype : p.envType = x.p.envType) : ParamWritten sr x (Voice.setVowel sr { x with p := p })
  | envelopeReset {y : Voice} (henv : y.env = x.env.reset) (hfmt : y.fmt = x.fmt) (hattack : y.p.attack = x.p.attack)
      (hrelease : y.p.release = x.p.release) : ParamWritten sr x y

theorem ParamWritten.unchanged (sr : F32) (x : Voice) : ParamWritten sr x x := .stored rfl rfl rfl rfl rfl

theorem ParamWritten.modeWrite {sr : F32} {x : Voice} (old w : Word) {store : Voice → Voice}
    (h : ParamWritten sr x { store x with dirty := true }) : ParamWritten sr x (x.modeWrite old w store) := by
  unfold Voice.modeWrite
  split
  · exact h
  · exact .unchanged sr x

theorem ParamWritten.setExciter (sr : F32) (x : Voice) (k : ExcKind) : ParamWritten sr x (x.setExciter k) := by
  unfold Voice.setExciter
  by_cases h : x.p.excKind = .noise ∧ k ≠ .noise
  · exact .envelopeReset (if_pos h) rfl rfl rfl
  · exact .stored (if_neg h) rfl rfl rfl rfl

theorem ParamWritten.setEnvType (sr : F32) (x : Voice) (t : EnvType) : ParamWritten sr x (x.setEnvType t) := by
  unfold Voice.setEnvType
  split
  · exact .envelopeReset rfl rfl rfl rfl
  · exact .unchanged sr x

theorem Voice.writeParam_written (sr : F32) (id : ParamId) (w : Word) (x : Voice) :
    ParamWritten sr x (x.writeParam sr id w) := by
  unfold Voice.writeParam
  cases id with
  | modeCount | inharm | exponent | falloff | decay | evenGain | foldPoint | excRate =>
    exact .modeWrite _ w (.stored rfl rfl rfl rfl rfl)
  | foldMode =>
    cases FoldMode.ofWord w with
    | none => exact .unchanged sr x
    | some m => exact .modeWrite _ w (.stored rfl rfl rfl rfl rfl)
  | excKind =>
    cases ExcKind.ofWord w with
    | none => exact .unchanged sr x
    | some k => exact .setExciter sr x k
  | attack => exact .attackSet w
  | release => exact .releaseSet w
  | fmtX | fmtY | fmtZ | fmtLen => exact .vowelSet _ rfl rfl rfl
  | fmtMix => exact .stored rfl rfl rfl rfl rfl
  | fmtArch =>
    cases FmtArch.ofWord w with
    | none => exact .unchanged sr x
    | some a => exact .stored rfl rfl rfl rfl rfl
  | envType =>
    cases EnvType.ofWord w with
    | none => exact .unchanged sr x
    | some t => exact .setEnvType sr x t

theorem ParamWritten.env_ok {sr : F32} {x y : Voice} (h : ParamWritten sr x y) (hx : x.env.Ok x.p.envType) :
    y.env.Ok y.p.envType := by
  cases h with
  | stored henv hfmt hattack hrelease htype => rw [henv, htype]; exact hx
  | attackSet | releaseSet => exact hx
  | vowelSet p hattack hrelease htype =>
    rw [Voice.setVowel_p, Voice.setVowel_env, htype]
    exact hx
  | envelopeReset henv => rw [henv]; exact Envelope.reset_ok _ _

theorem ParamWritten.fmt_ok {sr : F32} {x y : Voice} (h : ParamWritten sr x y) (hx : x.fmt.All fun b => b.filter.Ok) :
    y.fmt.All fun b => b.filter.Ok := by
  cases h with
  | stored henv hfmt => rw [hfmt]; exact hx
  | envelopeReset henv hfmt => rw [hfmt]; exact hx
  | attackSet | releaseSet | vowelSet => exact hx

theorem Voice.modeWrite_clean {old w : Word} {store : Voice → Voice} {x : Voice}
    (h : (x.modeWrite old w store).dirty = false) : x.dirty = false ∧ w = old := by
  unfold Voice.modeWrite at h
  split at h
  case isTrue => cases h
  case isFalse heq => exact ⟨h, by simpa using heq⟩

/-- A write that leaves the voice clean found it clean and, of MODE_COUNT, the value already written. -/
theorem Voice.writeParam_clean {sr : F32} {id : ParamId} {w : Word} {x : Voice}
    (h : (x.writeParam sr id w).dirty = false) : x.dirty = false ∧ (id = .modeCount → w = x.modesWritten) := by
  unfold Voice.writeParam at h
  cases id with
  | modeCount => exact ⟨(Voice.modeWrite_clean h).1, fun _ => (Voice.modeWrite_clean h).2⟩
  | inharm | exponent | falloff | decay | evenGain | foldPoint | excRate => exact ⟨(Voice.modeWrite_clean h).1, nofun⟩
  | foldMode =>
    refine ⟨?_, nofun⟩
    cases hcode : FoldMode.ofWord w with
    | none => simpa [hcode] using h
    | some m => simp only [hcode] at h; exact (Voice.modeWrite_clean h).1
  | excKind =>
    refine ⟨?_, nofun⟩
    cases hcode : ExcKind.ofWord w with
    | none | some k => simpa [hcode] using h
  | attack | release | fmtX | fmtY | fmtZ | fmtLen | fmtMix => exact ⟨h, nofun⟩
  | fmtArch =>
    refine ⟨?_, nofun⟩
    cases hcode : FmtArch.ofWord w with
    | none | some a => simpa [hcode] using h
  | envType =>
    refine ⟨?_, nofun⟩
    cases hcode : EnvType.ofWord w with
    | none => simpa [hcode] using h
    | some t => simpa [hcode, Voice.setEnvType, apply_ite Voice.dirty] using h

/-! ## One voice -/

theorem Voice.update_ok {sr : F32} {mm : Nat} {x : Voice} (h : x.Ok mm) : (x.update sr).Ok mm := by
  obtain ⟨hres, -, -, hmin, hmax, -, henv, hfmt⟩ := h
  exact ⟨by simpa using hres, hmin, hmax, hmin, hmax, fun _ => rfl, henv, hfmt⟩

/-- Note frequency and velocity are under no rule of shape or value. -/
theorem Voice.noteOn_ok {sr f vel : F32} {mm : Nat} {x : Voice} (h : x.Ok mm) : (x.noteOn sr f vel).Ok mm := by
  have hstored : Voice.Ok mm { x with noteFreq := f, velocity := vel } := h
  have hupdated : (Voice.update sr { x with noteFreq := f, velocity := vel }).Ok mm := Voice.update_ok hstored
  obtain ⟨hres, hmin, hmax, hmin', hmax', hclean, henv, hfmt⟩ := hupdated
  rw [Voice.noteOn_eq]
  dsimp only
  split
  · exact ⟨by simpa using hres, hmin, hmax, hmin', hmax', hclean, henv, hfmt⟩
  · exact ⟨hres, hmin, hmax, hmin', hmax', hclean, Envelope.withState_ok henv (.inl rfl), hfmt⟩

theorem Voice.noteOff_ok {mm : Nat} {x : Voice} (h : x.Ok mm) : x.noteOff.Ok mm := by
  rw [Voice.noteOff_eq]
  split
  · exact h
  · obtain ⟨hres, hmin, hmax, hmin', hmax', hclean, henv, hfmt⟩ := h
    exact ⟨hres, hmin, hmax, hmin', hmax', hclean, Envelope.withState_ok henv (.inr rfl), hfmt⟩

/-- R125 lets only a MODE_COUNT in 1..MAX_MODES through to the field that holds it. -/
theorem Voice.writeParam_ok {sr : F32} {mm : Nat} {id : ParamId} {w : Word} {x : Voice} (h : x.Ok mm)
    (hw : id.accepts mm w = true) : (x.writeParam sr id w).Ok mm := by
  obtain ⟨hres, hmin, hmax, hmin', hmax', hclean, henv, hfmt⟩ := h
  have hwritten := Voice.writeParam_written sr id w x
  have hrange : 1 ≤ (x.writeParam sr id w).modesWritten.toNat ∧ (x.writeParam sr id w).modesWritten.toNat ≤ mm := by
    rw [Voice.writeParam_modesWritten]
    split
    case isTrue hid =>
      subst hid
      simpa [ParamId.accepts] using hw
    case isFalse => exact ⟨hmin', hmax'⟩
  have hsame : (x.writeParam sr id w).dirty = false →
      (x.writeParam sr id w).modesWritten = (x.writeParam sr id w).p.modeCount := by
    intro hdirty
    obtain ⟨hx, hcount⟩ := Voice.writeParam_clean hdirty
    rw [Voice.writeParam_modesWritten, Voice.writeParam_p_modeCount, ← hclean hx]
    split
    case isTrue hid => exact hcount hid
    case isFalse => rfl
  refine ⟨by simpa using hres, ?_, ?_, hrange.1, hrange.2, hsame, hwritten.env_ok henv, hwritten.fmt_ok hfmt⟩
  · rw [Voice.writeParam_p_modeCount]; exact hmin
  · rw [Voice.writeParam_p_modeCount]; exact hmax

theorem Voice.onRes_ok {mm m : Nat} {f : Resonator → Resonator} {x : Voice} (h : x.Ok mm) : (x.onRes m f).Ok mm := by
  obtain ⟨hres, hrest⟩ := h
  exact ⟨by simpa using hres, hrest⟩

theorem Voice.onBand_ok {mm b : Nat} {f : Band → Band} {x : Voice} (h : x.Ok mm)
    (hf : ∀ n : Band, n.filter.Ok → (f n).filter.Ok) : (x.onBand b f).Ok mm := by
  obtain ⟨hres, hmin, hmax, hmin', hmax', hclean, henv, hfmt⟩ := h
  exact ⟨hres, hmin, hmax, hmin', hmax', hclean, henv, Formant.all_onBand b hfmt hf⟩

theorem Voice.tick_ok {sr n : F32} {mm : Nat} {x : Voice} (h : x.Ok mm) : (x.tick sr n).2.Ok mm := by
  obtain ⟨hres, hmin, hmax, hmin', hmax', hclean, henv, hfmt⟩ := h
  obtain ⟨e, raw, -, -, htick⟩ := x.tick_res_fmt sr n
  refine ⟨by simpa using hres, hmin, hmax, hmin', hmax', hclean, Envelope.tick_ok henv, ?_⟩
  rw [htick]
  exact Formant.all_tick hfmt (fun b i hb => Biquad.tick_ok hb i) _ _

/-- A new rate touches no register under a rule of value, the histories of the filter among them. -/
theorem Voice.setSampleRate_ok {sr : F32} {mm : Nat} {x : Voice} (h : x.Ok mm) : (x.setSampleRate sr).Ok mm := by
  obtain ⟨hres, hrest⟩ := h
  exact ⟨by simpa using hres, hrest⟩

theorem VoiceChange.ok {sr sr' : F32} {mm : Nat} {x y : Voice} (h : VoiceChange sr sr' mm x y) (hx : x.Ok mm) :
    y.Ok mm := by
  cases h with
  | kept => exact hx
  | updated => exact Voice.update_ok hx
  | started => exact Voice.noteOn_ok hx
  | released => exact Voice.noteOff_ok hx
  | written hsr id w hw => exact Voice.writeParam_ok hx hw
  | resSet | resPinged => exact Voice.onRes_ok hx
  | designed | gainSet => exact Voice.onBand_ok hx fun n hn => hn
  | ticked => exact Voice.tick_ok hx
  | retimed => exact Voice.setSampleRate_ok hx

/-! ## The whole state -/

theorem Voice.atReset_ok {mm : Nat} (hmin : 1 ≤ mm) (sr : F32) : (Voice.atReset sr mm).Ok mm := by
  have hzero : isFinite C.zero = true := by decide
  have hcount : Params.atReset.modeCount.toNat = 1 := rfl
  exact ⟨List.length_replicate, le_of_eq hcount.symm, hcount.le.trans hmin, le_of_eq hcount.symm, hcount.le.trans hmin,
    fun _ => rfl, ⟨inUnit_zero, fun _ => rfl, nofun⟩,
    ⟨⟨hzero, hzero⟩, ⟨hzero, hzero⟩, ⟨hzero, hzero⟩, ⟨hzero, hzero⟩⟩⟩

theorem maxModesOf_eq {xs : List Voice} {mm : Nat} (hne : 1 ≤ xs.length) (h : ∀ x ∈ xs, x.res.length = mm) :
    maxModesOf xs = mm := by
  cases xs with
  | nil => cases hne
  | cons x xs => exact h x List.mem_cons_self

theorem exists_of_mem_right {R : Voice → Voice → Prop} {xs ys : List Voice} (h : List.Forall₂ R xs ys) {y : Voice}
    (hy : y ∈ ys) : ∃ x ∈ xs, R x y := by
  induction h with
  | nil => cases hy
  | cons hxy _ ih =>
    rcases List.mem_cons.mp hy with rfl | hy
    · exact ⟨_, List.mem_cons_self, hxy⟩
    · obtain ⟨x, hx, hr⟩ := ih hy
      exact ⟨x, List.mem_cons_of_mem _ hx, hr⟩

theorem State.resetWith_ok {nv mm : Nat} (hnv : 1 ≤ nv ∧ nv ≤ 16) (hmm : 1 ≤ mm ∧ mm ≤ 256) :
    (State.resetWith nv mm).Ok := by
  have hvoice : ∀ x ∈ (State.resetWith nv mm).voices, x.Ok mm := fun x hx => by
    rw [List.eq_of_mem_replicate hx]
    exact Voice.atReset_ok hmm.1 _
  have hsize : (State.resetWith nv mm).nv = nv := List.length_replicate
  have hmodes : (State.resetWith nv mm).maxModes = mm :=
    maxModesOf_eq (hnv.1.trans_eq hsize.symm) fun x hx => (hvoice x hx).1
  have hlast : nv - 1 < nv := by omega
  have hrate : fgt C.n48000 C.zero = true ∧ flt C.n48000 posInf = true := by decide +kernel
  unfold State.Ok
  rw [hsize, hmodes]
  exact ⟨hnv, hmm, List.length_replicate, hlast, hrate, hvoice⟩

/-- With every voice changed as a command can change it, the shape and values hold once they hold outside the voices. -/
theorem State.Ok.of_voices {s t : State} (h : s.Ok)
    (hvoices : List.Forall₂ (VoiceChange s.sr t.sr s.maxModes) s.voices t.voices)
    (hslots : t.slots.length = s.slots.length) (hlast : t.last < s.nv)
    (hrate : fgt t.sr C.zero = true ∧ flt t.sr posInf = true) : t.Ok := by
  obtain ⟨hnv, hmm, hlen, -, -, hok⟩ := h
  have hvoice : ∀ y ∈ t.voices, y.Ok s.maxModes := fun y hy => by
    obtain ⟨x, hx, hchange⟩ := exists_of_mem_right hvoices hy
    exact hchange.ok (hok x hx)
  have hsize : t.nv = s.nv := hvoices.length_eq.symm
  have hmodes : t.maxModes = s.maxModes :=
    maxModesOf_eq (hnv.1.trans_eq hsize.symm) fun y hy => (hvoice y hy).1
  unfold State.Ok
  rw [hsize, hmodes]
  exact ⟨hnv, hmm, hslots.trans hlen, hlast, hrate, hvoice⟩

/-- The slots keep their number and the cursor its range under every effect but RESET's, and R150 lets only a finite positive
rate through. -/
theorem Effect.slots_last_sr {s t : State} {i : Instr} (h : Effect s i t) (hs : s.Ok) (hi : i ≠ .reset)
    (hlegal : i.legal s.nv s.maxModes = true) :
    t.slots.length = s.slots.length ∧ t.last < s.nv ∧ fgt t.sr C.zero = true ∧ flt t.sr posInf = true := by
  obtain ⟨-, -, -, hlast, hrate, -⟩ := hs
  cases h with
  | reset => exact absurd rfl hi
  | rate sr =>
    have hgood : badRate sr = none := (firstRefusal_eq_none_iff s (.setSr sr)).mpr hlegal
    unfold badRate at hgood
    refine ⟨rfl, hlast, ?_⟩
    simpa using hgood
  | noteTaken n vel k note vs hk => exact ⟨List.length_set, hk, hrate⟩
  | noteFreed => exact ⟨List.length_set, hlast, hrate⟩
  | voices | sample | status | clear | slot | noteDropped | noteUnmatched => exact ⟨rfl, hlast, hrate⟩

theorem State.resetAll_ok {s : State} (h : s.Ok) : s.resetAll.Ok := by
  obtain ⟨hnv, hmm, -⟩ := h
  exact State.resetWith_ok hnv hmm

theorem exec_keeps_ok {i : Instr} {s t : State} (hs : s.Ok) (h : exec i s = .next t) : t.Ok := by
  obtain ⟨-, rfl⟩ | hvoices := exec_voices h
  · exact State.resetAll_ok hs
  · obtain ⟨hlegal, heffect⟩ | ⟨-, r, -, rfl⟩ := exec_cases h
    · by_cases hi : i = .reset
      · subst hi
        obtain rfl : s.resetAll = t := Host.Outcome.next.inj h
        exact State.resetAll_ok hs
      · obtain ⟨hslots, hlast, hrate⟩ := heffect.slots_last_sr hs hi hlegal
        exact hs.of_voices hvoices hslots hlast hrate
    · exact hs

end Sys2Proof.Machine

namespace Sys2Proof

open Machine

/-- Settles O12: waiting and refusals leave the registers of the invariant alone, and a command keeps it voice by voice. -/
theorem stepKeepsOk : Obligations.StepKeepsOk := by
  intro s t hs h
  obtain rfl | ⟨info, rest, rfl⟩ | ⟨i, rest, hexec⟩ := step_cases h
  · exact hs
  · exact hs
  · have hport : State.Ok { s with cmd := rest } := hs
    exact exec_keeps_ok hport hexec

/-- Settles O11: NV and MAX_MODES lie in their ranges by the types of the constants that stand for them. -/
theorem resetStateIsOk : Obligations.ResetStateIsOk :=
  State.resetWith_ok ⟨Nat.le_add_left 1 _, Config.numVoicesLess1.isLt⟩ ⟨Nat.le_add_left 1 _, Config.maxModesLess1.isLt⟩

end Sys2Proof
end

section
/-! SUPPORT. The invariant of derived registers (R29, R32, R33, R101, R106): what each operation on a phasor, a band, a
resonator and a voice keeps of it, and with that every step. -/

namespace Sys2Proof.Machine

/-! ## The units -/

theorem Phasor.setFreq_derived (sr f : F32) (ph : Phasor) : (ph.setFreq sr f).Derived sr := rfl

theorem Phasor.Derived.tick {sr : F32} {ph : Phasor} (h : ph.Derived sr) : ph.tick.Derived sr := h

theorem Phasor.setSampleRate_derived (sr : F32) (ph : Phasor) : (ph.setSampleRate sr).Derived sr := rfl

theorem Band.Derived.design {sr : F32} {n : Band} (t : BiquadType) (fc q : F32) (h : n.Derived sr) :
    (n.design sr t fc q).Derived sr := ⟨rfl, h.2⟩

theorem Band.Derived.setGain {sr : F32} {n : Band} (g : F32) (h : n.Derived sr) : (n.setGain g).Derived sr := ⟨h.1, rfl⟩

theorem Band.Derived.tick {sr : F32} {n : Band} (x : F32) (h : n.Derived sr) : (n.tick x).Derived sr := h

/-- R103 designs the band again at the new rate; its gain does not depend on the rate. -/
theorem Band.Derived.setSampleRate {sr : F32} {n : Band} (sr' : F32) (h : n.Derived sr) :
    (n.setSampleRate sr').Derived sr' := ⟨rfl, h.2⟩

theorem Resonator.setParams_derived (sr f a d : F32) (r : Resonator) : (r.setParams sr f a d).Derived sr :=
  ⟨rfl, rfl, rfl⟩

theorem Resonator.setSampleRate_derived (sr : F32) (r : Resonator) : (r.setSampleRate sr).Derived sr := ⟨rfl, rfl, rfl⟩

theorem Resonator.Derived.ping {sr : F32} {r : Resonator} (h : r.Derived sr) : r.ping.Derived sr := h

/-- A tick writes the delay state alone, which is no source of a derived register. -/
theorem Resonator.Derived.tick {sr : F32} {r : Resonator} (x : F32) (h : r.Derived sr) : (r.tick x).2.Derived sr := by
  obtain ⟨yr, yi, heq⟩ := r.tick_snd x
  rw [heq]
  exact h

/-! ## The resonators of a voice -/

theorem mapActive_derived {sr : F32} {n : Nat} {f : Nat → Resonator → Resonator} {rs : List Resonator}
    (h : ∀ r ∈ rs, r.Derived sr) (hf : ∀ m r, r.Derived sr → (f m r).Derived sr) :
    ∀ r ∈ mapActive n f rs, r.Derived sr := by
  intro r' hr'
  obtain ⟨r, hr, rfl | ⟨m, rfl⟩⟩ := mem_mapActive hr'
  · exact h _ hr
  · exact hf m r (h r hr)

theorem modify_derived {sr : F32} {m : Nat} {f : Resonator → Resonator} {rs : List Resonator}
    (h : ∀ r ∈ rs, r.Derived sr) (hf : ∀ r, r.Derived sr → (f r).Derived sr) : ∀ r ∈ rs.modify m f, r.Derived sr := by
  intro r' hr'
  obtain ⟨k, hk⟩ := List.mem_iff_getElem?.mp hr'
  rw [List.getElem?_modify, Option.map_eq_map, Option.map_eq_some_iff] at hk
  obtain ⟨r, hr, rfl⟩ := hk
  have hmem := h r (List.mem_of_getElem? hr)
  split
  · exact hf r hmem
  · exact hmem

theorem bankTick_derived {sr : F32} {rs : List Resonator} (h : ∀ r ∈ rs, r.Derived sr) (x : F32) (n : Nat) (acc : F32) :
    ∀ r ∈ (bankTick x n acc rs).2, r.Derived sr := by
  intro r' hr'
  rw [bankTick_snd, List.mem_append, List.mem_map] at hr'
  obtain ⟨r, hr, rfl⟩ | hr := hr'
  · exact (h r (List.mem_of_mem_take hr)).tick x
  · exact h r' (List.mem_of_mem_drop hr)

/-! ## One voice -/

theorem Voice.Derived.update {sr : F32} {x : Voice} (h : x.Derived sr) : (x.update sr).Derived sr := by
  obtain ⟨-, -, hgen, hattack, hrelease, hfmt, hres⟩ := h
  exact ⟨Phasor.setFreq_derived .., Phasor.setFreq_derived .., hgen, hattack, hrelease, hfmt,
    mapActive_derived hres fun m r _ => Resonator.setParams_derived ..⟩

theorem Voice.Derived.noteOn {sr : F32} {x : Voice} (f vel : F32) (h : x.Derived sr) : (x.noteOn sr f vel).Derived sr := by
  have hstored : Voice.Derived sr { x with noteFreq := f, velocity := vel } := h
  have hupdated : (Voice.update sr { x with noteFreq := f, velocity := vel }).Derived sr := hstored.update
  obtain ⟨hexc, hctl, hgen, hattack, hrelease, hfmt, hres⟩ := hupdated
  rw [Voice.noteOn_eq]
  dsimp only
  split
  · exact ⟨hexc, hctl, hgen, hattack, hrelease, hfmt, mapActive_derived hres fun m r hr => hr.ping⟩
  · exact ⟨hexc, hctl, hgen, hattack, hrelease, hfmt, hres⟩

theorem Voice.Derived.noteOff {sr : F32} {x : Voice} (h : x.Derived sr) : x.noteOff.Derived sr := by
  rw [Voice.noteOff_eq]
  split <;> exact h

/-- The times of the envelope and the vowel parameters are written together with what is derived from them. -/
theorem ParamWritten.env_fmt_derived {sr : F32} {x y : Voice} (h : ParamWritten sr x y)
    (hattack : x.env.ainc = envIncrement sr x.p.attack) (hrelease : x.env.rinc = envIncrement sr x.p.release)
    (hfmt : x.fmt.All fun b => b.Derived sr) :
    y.env.ainc = envIncrement sr y.p.attack ∧ y.env.rinc = envIncrement sr y.p.release ∧
      y.fmt.All fun b => b.Derived sr := by
  cases h with
  | stored henv hf ha hr => rw [henv, hf, ha, hr]; exact ⟨hattack, hrelease, hfmt⟩
  | attackSet => exact ⟨rfl, hrelease, hfmt⟩
  | releaseSet => exact ⟨hattack, rfl, hfmt⟩
  | vowelSet p ha hr =>
    obtain ⟨h0, h1, h2, h3⟩ := hfmt
    rw [Voice.setVowel_p, Voice.setVowel_env, ha, hr, Voice.setVowel_fmt]
    exact ⟨hattack, hrelease, h0.design .., h1.design .., h2.design .., h3.design ..⟩
  | envelopeReset henv hf ha hr => rw [henv, hf, ha, hr]; exact ⟨hattack, hrelease, hfmt⟩

theorem Voice.Derived.writeParam {sr : F32} {x : Voice} (id : ParamId) (w : Word) (h : x.Derived sr) :
    (x.writeParam sr id w).Derived sr := by
  obtain ⟨hexc, hctl, hgen, hattack, hrelease, hfmt, hres⟩ := h
  obtain ⟨hattack', hrelease', hfmt'⟩ := (Voice.writeParam_written sr id w x).env_fmt_derived hattack hrelease hfmt
  refine ⟨?_, ?_, ?_, hattack', hrelease', hfmt', ?_⟩
  · rw [Voice.writeParam_exc]; exact hexc
  · rw [Voice.writeParam_chCtl]; exact hctl
  · rw [Voice.writeParam_chGen]; exact hgen
  · rw [Voice.writeParam_res]; exact hres

theorem Voice.Derived.onRes {sr : F32} {x : Voice} {f : Resonator → Resonator} (m : Nat) (h : x.Derived sr)
    (hf : ∀ r : Resonator, r.Derived sr → (f r).Derived sr) : (x.onRes m f).Derived sr := by
  obtain ⟨hexc, hctl, hgen, hattack, hrelease, hfmt, hres⟩ := h
  exact ⟨hexc, hctl, hgen, hattack, hrelease, hfmt, modify_derived hres hf⟩

theorem Voice.Derived.onBand {sr : F32} {x : Voice} {f : Band → Band} (b : Nat) (h : x.Derived sr)
    (hf : ∀ n : Band, n.Derived sr → (f n).Derived sr) : (x.onBand b f).Derived sr := by
  obtain ⟨hexc, hctl, hgen, hattack, hrelease, hfmt, hres⟩ := h
  exact ⟨hexc, hctl, hgen, hattack, hrelease, Formant.all_onBand b hfmt hf, hres⟩

theorem Envelope.tick_incs (t : EnvType) (e : Envelope) : (e.tick t).ainc = e.ainc ∧ (e.tick t).rinc = e.rinc := by
  have hattack (top : EnvState) : (e.attackTick top).ainc = e.ainc ∧ (e.attackTick top).rinc = e.rinc := by
    rw [Envelope.attackTick_eq]; split <;> exact ⟨rfl, rfl⟩
  have hrelease : e.releaseTick.ainc = e.ainc ∧ e.releaseTick.rinc = e.rinc := by
    rw [Envelope.releaseTick_eq]; split <;> exact ⟨rfl, rfl⟩
  unfold Envelope.tick Envelope.tickAhr Envelope.tickAr
  cases t <;> cases e.state
  case ahr.attack | ar.attack => exact hattack _
  case ahr.release | ar.release => exact hrelease
  case ahr.rest | ahr.hold | ar.rest | ar.hold => exact ⟨rfl, rfl⟩

theorem Voice.Derived.tick {sr : F32} {x : Voice} (n : F32) (h : x.Derived sr) : (x.tick sr n).2.Derived sr := by
  obtain ⟨hexc, hctl, hgen, hattack, hrelease, hfmt, hres⟩ := h
  obtain ⟨e, raw, hbank, -, htick⟩ := x.tick_res_fmt sr n
  obtain ⟨hainc, hrinc⟩ := x.env.tick_incs x.p.envType
  refine ⟨hexc.tick, hctl.tick, Phasor.Derived.tick (Phasor.setFreq_derived ..), ?_, ?_, ?_, ?_⟩
  · rw [Voice.tick_env, Voice.tick_p, hainc]; exact hattack
  · rw [Voice.tick_env, Voice.tick_p, hrinc]; exact hrelease
  · rw [htick]; exact Formant.all_tick hfmt (fun b i hb => hb.tick i) _ _
  · rw [hbank]; exact bankTick_derived hres _ _ _

/-- R150 derives every rate-dependent value again, whatever the rate was; only the gains were derived without it. -/
theorem Voice.Derived.setSampleRate {sr : F32} {x : Voice} (sr' : F32) (h : x.Derived sr) :
    (x.setSampleRate sr').Derived sr' := by
  obtain ⟨-, -, -, -, -, ⟨h0, h1, h2, h3⟩, -⟩ := h
  refine ⟨Phasor.setSampleRate_derived .., Phasor.setSampleRate_derived .., Phasor.setSampleRate_derived .., rfl, rfl,
    ⟨h0.setSampleRate sr', h1.setSampleRate sr', h2.setSampleRate sr',
      h3.setSampleRate sr'⟩, fun r' hr' => ?_⟩
  obtain ⟨r, -, rfl⟩ := List.mem_map.mp hr'
  exact r.setSampleRate_derived sr'

theorem VoiceChange.derived {sr sr' : F32} {mm : Nat} {x y : Voice} (h : VoiceChange sr sr' mm x y)
    (hx : x.Derived sr) : y.Derived sr' := by
  cases h with
  | kept hsr => rw [hsr]; exact hx
  | updated hsr => rw [hsr]; exact hx.update
  | started hsr f vel => rw [hsr]; exact hx.noteOn f vel
  | released hsr => rw [hsr]; exact hx.noteOff
  | written hsr id w => rw [hsr]; exact hx.writeParam id w
  | resSet hsr m f a d => rw [hsr]; exact hx.onRes m fun r _ => r.setParams_derived sr f a d
  | resPinged hsr m => rw [hsr]; exact hx.onRes m fun r hr => hr.ping
  | designed hsr b t fc q => rw [hsr]; exact hx.onBand b fun n hn => hn.design t fc q
  | gainSet hsr b g => rw [hsr]; exact hx.onBand b fun n hn => hn.setGain g
  | ticked hsr k => rw [hsr]; exact hx.tick _
  | retimed => exact hx.setSampleRate sr'

/-! ## The reset state (R176) -/

theorem Phasor.atReset_derived : Phasor.atReset.Derived C.n48000 := by unfold Phasor.Derived; decide +kernel

/-- A band after reset carries its own design, and its gain of one is that of 0 dB. -/
theorem Band.atReset_derived (sr fc : F32) : (Band.atReset sr fc).Derived sr := by
  have hgain : C.one = dbToGain C.zero := by decide +kernel
  exact ⟨rfl, hgain⟩

/-- The coefficient is +0 because the decay factor of a decay time of +0 is that of an infinite exponent. -/
theorem Resonator.atReset_derived : Resonator.atReset.Derived C.n48000 := by unfold Resonator.Derived; decide +kernel

theorem Voice.atReset_derived (mm : Nat) : (Voice.atReset C.n48000 mm).Derived C.n48000 := by
  refine ⟨Phasor.atReset_derived, Phasor.atReset_derived, Phasor.atReset_derived, rfl, rfl,
    ⟨Band.atReset_derived .., Band.atReset_derived .., Band.atReset_derived .., Band.atReset_derived ..⟩, fun r hr => ?_⟩
  rw [List.eq_of_mem_replicate hr]
  exact Resonator.atReset_derived

theorem State.resetWith_derived (nv mm : Nat) : (State.resetWith nv mm).Derived := by
  intro x hx
  rw [List.eq_of_mem_replicate hx]
  exact Voice.atReset_derived mm

theorem exec_keeps_derived {i : Instr} {s t : State} (hs : s.Derived) (h : exec i s = .next t) : t.Derived := by
  obtain ⟨-, rfl⟩ | hvoices := exec_voices h
  · exact State.resetWith_derived s.nv s.maxModes
  · intro y hy
    obtain ⟨x, hx, hchange⟩ := exists_of_mem_right hvoices hy
    exact hchange.derived (hs x hx)

end Sys2Proof.Machine

namespace Sys2Proof

open Machine

/-- Settles O14: each change that a command makes of a voice writes a source together with what is derived from it. -/
theorem stepKeepsDerived : Obligations.StepKeepsDerived := by
  intro s t hs h
  obtain rfl | ⟨info, rest, rfl⟩ | ⟨i, rest, hexec⟩ := step_cases h
  · exact hs
  · exact hs
  · have hport : State.Derived { s with cmd := rest } := hs
    exact exec_keeps_derived hport hexec

/-- Settles O13: every voice of the reset state is `Voice.atReset` at the rate the state holds. -/
theorem resetStateIsDerived : Obligations.ResetStateIsDerived := State.resetWith_derived Config.NV Config.MAX_MODES

end Sys2Proof
end

section
/-! SUPPORT. Binary32 arithmetic against exact integers (R12, R13): rounded results are nearest with ties to even, the
operations on infinities and NaN, the comparisons, and the special values of the functions of R8. -/

namespace Sys2Proof.Machine

/-! ## A rounded result against any other value (R12) -/

/-- The factor of a sign bit. -/
def signFactor (neg : Bool) : Int := if neg then -1 else 1

theorem signFactor_cases (neg : Bool) : signFactor neg = 1 ∨ signFactor neg = -1 := by
  cases neg
  · exact .inl rfl
  · exact .inr rfl

theorem units_eq_signFactor (x : F32) : units x = signFactor (signBit x) * (magUnits x : Int) := by
  rw [units_eq, magUnits_eq, signFactor]

theorem signFactor_bne (a b : Bool) : signFactor (a != b) = signFactor a * signFactor b := by
  cases a <;> cases b <;> rfl

theorem roundCode_zero {d : Nat} (hd : 0 < d) : roundCode 0 d = 0 := by
  have h := roundCode_exact 0 d hd
  rwa [unitsOfMag_zero, Nat.zero_mul] at h

/-- Beside a place `n` above zero the mirror image of `c` lies no nearer than `c`, and as near only where one of
them is zero. -/
theorem abs_sub_le_mirror {c n : Int} (hc : 0 ≤ c) (hn : 0 ≤ n) :
    |c - n| ≤ |-c - n| ∧ (|c - n| = |-c - n| → c = 0 ∨ n = 0) := by
  rw [abs_of_nonpos (by omega : -c - n ≤ 0)]
  rcases abs_cases (c - n) with ⟨h, -⟩ | ⟨h, -⟩ <;> rw [h] <;> constructor <;> omega

/-- No finite value lies nearer to the exact `n / d` units of either sign than the rounded one, and where another value lies
as near the rounded pattern is even. -/
theorem rounded_nearest (neg : Bool) {n d : Nat} (hd : 0 < d) (hf : isFinite (withSign neg (roundMag n d)) = true)
    (z : F32) :
    |units (withSign neg (roundMag n d)) * d - signFactor neg * n| ≤ |units z * d - signFactor neg * n| ∧
      (|units (withSign neg (roundMag n d)) * d - signFactor neg * n| = |units z * d - signFactor neg * n| →
        units z = units (withSign neg (roundMag n d)) ∨ (withSign neg (roundMag n d)).toNat % 2 = 0) := by
  obtain ⟨hunits, hparity⟩ := units_rounded neg hf
  obtain ⟨hnear, htie⟩ := roundCode_nearest n d hd (magBits z)
  have hresult : units (withSign neg (roundMag n d)) = signFactor neg * (unitsOfMag (roundCode n d) : Int) := hunits
  have hother : units z = signFactor (signBit z) * (unitsOfMag (magBits z) : Int) := units_eq z
  have hzero : n = 0 → unitsOfMag (roundCode n d) = 0 := fun h => by rw [h, roundCode_zero hd, unitsOfMag_zero]
  have htie' : |(unitsOfMag (roundCode n d) * d : Int) - n| = |(unitsOfMag (magBits z) * d : Int) - n| →
      unitsOfMag (magBits z) = unitsOfMag (roundCode n d) ∨ roundCode n d % 2 = 0 := fun h => (htie h).imp_left (congrArg _)
  rw [hresult, hparity, hother]
  generalize unitsOfMag (roundCode n d) = u at *
  generalize unitsOfMag (magBits z) = c at *
  have hsigned (σ : Bool) (k m : Int) : |signFactor σ * k - signFactor σ * m| = |k - m| := by
    rcases signFactor_cases σ with h | h <;> rw [h, ← mul_sub, abs_mul] <;> norm_num
  rw [mul_assoc, hsigned, mul_assoc]
  rcases eq_or_ne (signBit z) neg with hsame | hopposite
  · rw [hsame, hsigned]
    exact ⟨hnear, fun heq => (htie' heq).imp_left fun h => by rw [h]⟩
  · have hfactor : signFactor (signBit z) = -signFactor neg := by
      cases hz : signBit z <;> cases neg <;> first | rfl | exact absurd hz hopposite
    obtain ⟨hmirror, hmirrorTie⟩ := abs_sub_le_mirror (c := (c * d : Int)) (n := n) (by positivity) (by positivity)
    rw [hfactor, neg_mul, ← mul_neg, hsigned]
    refine ⟨hnear.trans hmirror, fun heq => ?_⟩
    rcases htie' (le_antisymm hnear (heq ▸ hmirror)) with rfl | heven
    · left
      have hu : c = 0 := by
        rcases hmirrorTie heq with h | h
        · simpa [hd.ne'] using h
        · exact hzero (by exact_mod_cast h)
      simp [hu]
    · exact .inr heven

/-- A rounded result is not finite exactly from half a step past the greatest finite value on (R12). -/
theorem rounded_overflow_iff (neg : Bool) {n d : Nat} (hd : 0 < d) :
    isFinite (withSign neg (roundMag n d)) = false ↔ 0x1FFFFFF * 2 ^ 252 * d ≤ n := by
  rw [isFinite_rounded neg hd, decide_eq_false_iff_not, not_lt]

theorem rounded_of_overflow (neg : Bool) {n d : Nat} (h : isFinite (withSign neg (roundMag n d)) = false) :
    withSign neg (roundMag n d) = if neg then 0xFF800000#32 else 0x7F800000#32 := by
  have hle := roundMag_le n d
  have hmag : roundMag n d = 0x7F800000 := by
    rw [isFinite, magBits_withSign neg (roundMag_lt n d), decide_eq_false_iff_not] at h
    omega
  rw [hmag]
  cases neg <;> decide +kernel

theorem withSign_inf (neg : Bool) : withSign neg 0x7F800000 = if neg then 0xFF800000#32 else 0x7F800000#32 := by
  cases neg <;> decide +kernel

theorem withSign_zero (neg : Bool) : withSign neg 0 = if neg then 0x80000000#32 else 0x00000000#32 := by
  cases neg <;> decide +kernel

/-! ## Infinities and zeros by their patterns -/

theorem isNaN_of_isInf {x : F32} (h : isInf x = true) : isNaN x = false := by
  simp only [isInf, beq_iff_eq] at h
  simp [isNaN, h]

/-- An infinity is the one of its sign. -/
theorem eq_of_isInf {x : F32} (h : isInf x = true) : x = if signBit x then 0xFF800000#32 else 0x7F800000#32 := by
  simp only [isInf, beq_iff_eq] at h
  cases hs : signBit x
  · exact eq_of_sign_mag (by rw [hs]; decide) (by rw [h]; decide)
  · exact eq_of_sign_mag (by rw [hs]; decide) (by rw [h]; decide)

theorem isZero_of_isInf {x : F32} (h : isInf x = true) : isZero x = false := by
  simp only [isInf, beq_iff_eq] at h
  simp [isZero, h]

theorem isZero_eq_false_iff (x : F32) : isZero x = false ↔ units x ≠ 0 := by
  rw [← Bool.not_eq_true, isZero_iff]

theorem eq_negZero_iff (x : F32) : x = 0x80000000#32 ↔ units x = 0 ∧ signBit x = true := by
  constructor
  · rintro rfl
    exact ⟨(isZero_iff _).mp (by decide), by decide⟩
  · rintro ⟨hu, hs⟩
    have hm : magBits x = 0 := by simpa [isZero] using (isZero_iff x).mpr hu
    exact eq_of_sign_mag (by rw [hs]; decide) (by rw [hm]; decide)

theorem magUnits_eq_zero_iff (x : F32) : magUnits x = 0 ↔ units x = 0 := by
  rw [← natAbs_units, Int.natAbs_eq_zero]

/-! ## Addition -/

/-- The sum of two finite values is their exact sum, rounded. -/
theorem fadd_rounded {x y : F32} (hx : isFinite x = true) (hy : isFinite y = true) :
    ∃ neg, fadd x y = withSign neg (roundMag (units x + units y).natAbs 1) ∧
      units x + units y = signFactor neg * ((units x + units y).natAbs : Int) ∧
      (units x + units y = 0 → neg = (signBit x && signBit y)) := by
  rw [fadd_finite hx hy]
  split
  case isTrue hzero =>
    refine ⟨signBit x && signBit y, ?_, ?_, fun _ => rfl⟩
    · rw [hzero, Int.natAbs_zero, roundMag_zero]
    · rw [hzero, Int.natAbs_zero, Nat.cast_zero, mul_zero]
  case isFalse hne =>
    refine ⟨decide (units x + units y < 0), rfl, ?_, fun h => absurd h hne⟩
    by_cases hneg : units x + units y < 0
    · simp only [hneg, decide_true, signFactor, if_true]; omega
    · simp only [hneg, decide_false, signFactor, Bool.false_eq_true, if_false]; omega

theorem fadd_nearest {x y : F32} (hx : isFinite x = true) (hy : isFinite y = true) (hf : isFinite (fadd x y) = true)
    (z : F32) :
    |units (fadd x y) - (units x + units y)| ≤ |units z - (units x + units y)| ∧
      (|units (fadd x y) - (units x + units y)| = |units z - (units x + units y)| →
        units z = units (fadd x y) ∨ (fadd x y).toNat % 2 = 0) := by
  obtain ⟨neg, hsum, hexact, -⟩ := fadd_rounded hx hy
  rw [hsum] at hf ⊢
  have h := rounded_nearest neg Nat.one_pos hf z
  rwa [← hexact, Nat.cast_one, mul_one, mul_one] at h

theorem fadd_overflow_iff {x y : F32} (hx : isFinite x = true) (hy : isFinite y = true) :
    isFinite (fadd x y) = false ↔ 0x1FFFFFF * 2 ^ 252 ≤ |units x + units y| := by
  obtain ⟨neg, hsum, -⟩ := fadd_rounded hx hy
  rw [hsum, rounded_overflow_iff neg Nat.one_pos, mul_one, Int.abs_eq_natAbs]
  norm_cast

theorem fadd_of_overflow {x y : F32} (hx : isFinite x = true) (hy : isFinite y = true)
    (h : isFinite (fadd x y) = false) :
    fadd x y = if 0 < units x + units y then 0x7F800000#32 else 0xFF800000#32 := by
  have hbig := (fadd_overflow_iff hx hy).mp h
  obtain ⟨neg, hsum, hexact, -⟩ := fadd_rounded hx hy
  rw [hsum] at h
  rw [hsum, rounded_of_overflow neg h]
  have hne : 0 < |units x + units y| := lt_of_lt_of_le (by norm_num) hbig
  cases neg
  · rw [signFactor] at hexact
    simp only [Bool.false_eq_true, if_false] at hexact ⊢
    rw [if_pos (by rw [abs_pos] at hne; omega)]
  · rw [signFactor] at hexact
    simp only [if_true] at hexact ⊢
    rw [if_neg (by omega)]

theorem fadd_of_zero_sum {x y : F32} (hx : isFinite x = true) (hy : isFinite y = true) (h : units x + units y = 0) :
    fadd x y = if x = 0x80000000#32 ∧ y = 0x80000000#32 then 0x80000000#32 else 0x00000000#32 := by
  rw [fadd_finite hx hy, if_pos h, withSign_zero]
  have hiff : (signBit x && signBit y) = true ↔ x = 0x80000000#32 ∧ y = 0x80000000#32 := by
    rw [eq_negZero_iff, eq_negZero_iff, Bool.and_eq_true]
    constructor
    · rintro ⟨hsx, hsy⟩
      rw [units_eq, units_eq, hsx, hsy] at h
      rw [units_eq, units_eq, hsx, hsy]
      simp only [if_true, and_true] at h ⊢
      omega
    · rintro ⟨⟨-, hsx⟩, -, hsy⟩
      exact ⟨hsx, hsy⟩
  simp only [hiff]

theorem fadd_inf_finite {x y : F32} (hx : isInf x = true) (hy : isFinite y = true) : fadd x y = x ∧ fadd y x = x := by
  unfold fadd
  simp [hx, isNaN_of_isInf hx, isNaN_of_isFinite hy, isInf_of_isFinite hy]

theorem fadd_inf_inf {x y : F32} (hx : isInf x = true) (hy : isInf y = true) :
    fadd x y = if x = y then x else 0x7FC00000#32 := by
  have hsame : x = y ↔ signBit x = signBit y := by
    refine ⟨fun h => h ▸ rfl, fun h => ?_⟩
    rw [eq_of_isInf hx, eq_of_isInf hy, h]
  unfold fadd
  by_cases h : signBit x = signBit y
  · simp [isNaN_of_isInf hx, isNaN_of_isInf hy, hx, hy, hsame, h]
  · simp [isNaN_of_isInf hx, isNaN_of_isInf hy, hx, hy, hsame, h, qnan]

/-! ## Multiplication -/

theorem fmul_finite {x y : F32} (hx : isFinite x = true) (hy : isFinite y = true) :
    fmul x y = withSign (signBit x != signBit y) (roundMag (magUnits x * magUnits y) (2 ^ 149)) := by
  unfold fmul
  simp [isNaN_of_isFinite hx, isNaN_of_isFinite hy, isInf_of_isFinite hx, isInf_of_isFinite hy]

/-- The exact product, its sign apart from its magnitude. -/
theorem units_mul (x y : F32) :
    units x * units y = signFactor (signBit x != signBit y) * ((magUnits x * magUnits y : Nat) : Int) := by
  rw [units_eq_signFactor x, units_eq_signFactor y, signFactor_bne, Nat.cast_mul]
  ring

theorem fmul_nearest {x y : F32} (hx : isFinite x = true) (hy : isFinite y = true) (hf : isFinite (fmul x y) = true)
    (z : F32) :
    |units (fmul x y) * 2 ^ 149 - units x * units y| ≤ |units z * 2 ^ 149 - units x * units y| ∧
      (|units (fmul x y) * 2 ^ 149 - units x * units y| = |units z * 2 ^ 149 - units x * units y| →
        units z = units (fmul x y) ∨ (fmul x y).toNat % 2 = 0) := by
  rw [fmul_finite hx hy] at hf ⊢
  rw [units_mul]
  exact_mod_cast rounded_nearest _ (Nat.two_pow_pos 149) hf z

theorem fmul_overflow_iff {x y : F32} (hx : isFinite x = true) (hy : isFinite y = true) :
    isFinite (fmul x y) = false ↔ 0x1FFFFFF * 2 ^ 252 * 2 ^ 149 ≤ |units x * units y| := by
  rw [fmul_finite hx hy, rounded_overflow_iff _ (Nat.two_pow_pos 149), Int.abs_eq_natAbs, Int.natAbs_mul, natAbs_units,
    natAbs_units]
  norm_cast

/-- The product of two finite values is not NaN and has the sign of its factors. -/
theorem fmul_sign {x y : F32} (hx : isFinite x = true) (hy : isFinite y = true) :
    isNaN (fmul x y) = false ∧ signBit (fmul x y) = (signBit x != signBit y) := by
  rw [fmul_finite hx hy]
  exact ⟨isNaN_rounded _ _ _, signBit_withSign _ (roundMag_lt _ _)⟩

theorem fmul_comm (x y : F32) : fmul x y = fmul y x := by
  unfold fmul
  rw [Bool.or_comm (isNaN x), Bool.or_comm (isInf x), Bool.or_comm (isZero x), bne_comm (a := signBit x),
    Nat.mul_comm (magUnits x)]

theorem fmul_inf_zero {x y : F32} (hx : isInf x = true) (hy : isFinite y = true) (hzero : units y = 0) :
    fmul x y = 0x7FC00000#32 := by
  unfold fmul
  simp [isNaN_of_isInf hx, isNaN_of_isFinite hy, hx, (isZero_iff y).mpr hzero, qnan]

theorem fmul_inf_nonzero {x y : F32} (hx : isInf x = true)
    (hy : isInf y = true ∨ (isFinite y = true ∧ units y ≠ 0)) :
    fmul x y = if signBit x = signBit y then 0x7F800000#32 else 0xFF800000#32 := by
  obtain ⟨hnan, hzero⟩ : isNaN y = false ∧ isZero y = false := by
    rcases hy with hinf | ⟨hfin, hne⟩
    · exact ⟨isNaN_of_isInf hinf, isZero_of_isInf hinf⟩
    · exact ⟨isNaN_of_isFinite hfin, (isZero_eq_false_iff y).mpr hne⟩
  have hresult : fmul x y = withSign (signBit x != signBit y) 0x7F800000 := by
    unfold fmul
    simp [isNaN_of_isInf hx, hnan, hx, isZero_of_isInf hx, hzero]
  rw [hresult, withSign_inf]
  by_cases h : signBit x = signBit y <;> simp [h]

/-! ## Division -/

theorem fdiv_finite {x y : F32} (hx : isFinite x = true) (hy : isFinite y = true) (hne : units y ≠ 0) :
    fdiv x y = withSign (signBit x != signBit y) (roundMag (magUnits x * 2 ^ 149) (magUnits y)) := by
  unfold fdiv
  simp [isNaN_of_isFinite hx, isNaN_of_isFinite hy, isInf_of_isFinite hx, isInf_of_isFinite hy,
    (isZero_eq_false_iff y).mpr hne]

theorem magUnits_pos {y : F32} (h : units y ≠ 0) : 0 < magUnits y :=
  Nat.pos_of_ne_zero (mt (magUnits_eq_zero_iff y).mp h)

/-- A distance from the exact quotient, in steps of the divisor: its sign moved to the dividend. -/
theorem abs_mul_units_sub (k : Int) (x y : F32) :
    |k * units y - units x * 2 ^ 149| =
      |k * (magUnits y : Int) - signFactor (signBit x != signBit y) * ((magUnits x * 2 ^ 149 : Nat) : Int)| := by
  rw [units_eq_signFactor x, units_eq_signFactor y, signFactor_bne]
  rcases signFactor_cases (signBit y) with h | h <;> rw [h]
  · push_cast; ring_nf
  · rw [← abs_neg]; push_cast; ring_nf

theorem fdiv_nearest {x y : F32} (hx : isFinite x = true) (hy : isFinite y = true) (hne : units y ≠ 0)
    (hf : isFinite (fdiv x y) = true) (z : F32) :
    |units (fdiv x y) * units y - units x * 2 ^ 149| ≤ |units z * units y - units x * 2 ^ 149| ∧
      (|units (fdiv x y) * units y - units x * 2 ^ 149| = |units z * units y - units x * 2 ^ 149| →
        units z = units (fdiv x y) ∨ (fdiv x y).toNat % 2 = 0) := by
  rw [fdiv_finite hx hy hne] at hf ⊢
  rw [abs_mul_units_sub, abs_mul_units_sub]
  exact rounded_nearest _ (magUnits_pos hne) hf z

theorem fdiv_overflow_iff {x y : F32} (hx : isFinite x = true) (hy : isFinite y = true) (hne : units y ≠ 0) :
    isFinite (fdiv x y) = false ↔ 0x1FFFFFF * 2 ^ 252 * |units y| ≤ |units x * 2 ^ 149| := by
  rw [fdiv_finite hx hy hne, rounded_overflow_iff _ (magUnits_pos hne), Int.abs_eq_natAbs (units x * _), Int.natAbs_mul,
    natAbs_units, Int.abs_eq_natAbs (units y), natAbs_units]
  norm_cast

/-- The quotient of two finite values is not NaN and has the sign of its operands. -/
theorem fdiv_sign {x y : F32} (hx : isFinite x = true) (hy : isFinite y = true) (hne : units y ≠ 0) :
    isNaN (fdiv x y) = false ∧ signBit (fdiv x y) = (signBit x != signBit y) := by
  rw [fdiv_finite hx hy hne]
  exact ⟨isNaN_rounded _ _ _, signBit_withSign _ (roundMag_lt _ _)⟩

theorem fdiv_by_zero {x y : F32} (hx : isFinite x = true) (hy : isFinite y = true) (hzero : units y = 0) :
    (units x ≠ 0 → fdiv x y = if signBit x = signBit y then 0x7F800000#32 else 0xFF800000#32) ∧
      (units x = 0 → fdiv x y = 0x7FC00000#32) := by
  have hresult : fdiv x y = if isZero x then qnan else withSign (signBit x != signBit y) 0x7F800000 := by
    unfold fdiv
    simp [isNaN_of_isFinite hx, isNaN_of_isFinite hy, isInf_of_isFinite hx, isInf_of_isFinite hy,
      (isZero_iff y).mpr hzero]
  constructor <;> intro hne
  · rw [hresult, (isZero_eq_false_iff x).mpr hne, withSign_inf]
    by_cases h : signBit x = signBit y <;> simp [h]
  · rw [hresult, (isZero_iff x).mpr hne]
    rfl

theorem fdiv_inf_finite {x y : F32} (hx : isInf x = true) (hy : isFinite y = true) :
    fdiv x y = if signBit x = signBit y then 0x7F800000#32 else 0xFF800000#32 := by
  have hresult : fdiv x y = withSign (signBit x != signBit y) 0x7F800000 := by
    unfold fdiv
    simp [isNaN_of_isInf hx, isNaN_of_isFinite hy, hx, isInf_of_isFinite hy]
  rw [hresult, withSign_inf]
  by_cases h : signBit x = signBit y <;> simp [h]

theorem fdiv_finite_inf {x y : F32} (hx : isFinite x = true) (hy : isInf y = true) :
    fdiv x y = if signBit x = signBit y then 0x00000000#32 else 0x80000000#32 := by
  have hresult : fdiv x y = withSign (signBit x != signBit y) 0 := by
    unfold fdiv
    simp [isNaN_of_isFinite hx, isNaN_of_isInf hy, isInf_of_isFinite hx, hy]
  rw [hresult, withSign_zero]
  by_cases h : signBit x = signBit y <;> simp [h]

theorem fdiv_inf_inf {x y : F32} (hx : isInf x = true) (hy : isInf y = true) : fdiv x y = 0x7FC00000#32 := by
  unfold fdiv
  simp [isNaN_of_isInf hx, isNaN_of_isInf hy, hx, hy, qnan]

/-! ## NaN (R12) -/

/-- The canonical NaN is the only NaN that `x` can be. -/
def CanonicalIfNaN (x : F32) : Prop := isNaN x = true → x = 0x7FC00000#32

theorem CanonicalIfNaN.qnan : CanonicalIfNaN qnan := fun _ => rfl

theorem CanonicalIfNaN.of_not_NaN {x : F32} (h : isNaN x = false) : CanonicalIfNaN x := by
  intro hnan
  rw [h] at hnan
  cases hnan

theorem CanonicalIfNaN.withSign (neg : Bool) {m : Nat} (h : m ≤ 0x7F800000) :
    CanonicalIfNaN (Machine.withSign neg m) :=
  .of_not_NaN (by rw [isNaN, magBits_withSign neg (by omega)]; simpa using h)

theorem CanonicalIfNaN.rounded (neg : Bool) (n d : Nat) : CanonicalIfNaN (Machine.withSign neg (roundMag n d)) :=
  .withSign neg (roundMag_le n d)

theorem CanonicalIfNaN.ite {p : Prop} [Decidable p] {a b : F32} (ha : p → CanonicalIfNaN a)
    (hb : ¬p → CanonicalIfNaN b) : CanonicalIfNaN (if p then a else b) := by
  split
  case isTrue h => exact ha h
  case isFalse h => exact hb h

theorem CanonicalIfNaN.canonical (x : F32) : CanonicalIfNaN (Machine.canonical x) := by
  unfold Machine.canonical
  exact .ite (fun _ => .qnan) fun h => .of_not_NaN (Bool.eq_false_of_not_eq_true h)

/-- Behind the test for NaN operands, an operand handed on is no NaN. -/
theorem CanonicalIfNaN.fadd (x y : F32) : CanonicalIfNaN (fadd x y) := by
  unfold Machine.fadd
  refine .ite (fun _ => .qnan) fun h => ?_
  rw [Bool.or_eq_true, not_or, Bool.not_eq_true, Bool.not_eq_true] at h
  obtain ⟨hx, hy⟩ := h
  refine .ite (fun _ => .ite (fun _ => .qnan) fun _ => .of_not_NaN hx) fun _ => .ite (fun _ => .of_not_NaN hy) fun _ => ?_
  exact .ite (fun _ => .withSign _ (Nat.zero_le _)) fun _ => .rounded _ _ _

theorem CanonicalIfNaN.fmul (x y : F32) : CanonicalIfNaN (fmul x y) := by
  unfold Machine.fmul
  exact .ite (fun _ => .qnan) fun _ => .ite (fun _ => .ite (fun _ => .qnan) fun _ => .withSign _ le_rfl) fun _ =>
    .rounded _ _ _

theorem CanonicalIfNaN.fdiv (x y : F32) : CanonicalIfNaN (fdiv x y) := by
  unfold Machine.fdiv
  refine .ite (fun _ => .qnan) fun _ => .ite (fun _ => .ite (fun _ => .qnan) fun _ => .withSign _ le_rfl) fun _ => ?_
  refine .ite (fun _ => .withSign _ (Nat.zero_le _)) fun _ => ?_
  exact .ite (fun _ => .ite (fun _ => .qnan) fun _ => .withSign _ le_rfl) fun _ => .rounded _ _ _

theorem CanonicalIfNaN.sin32 (x : F32) : CanonicalIfNaN (sin32 x) := by
  unfold Machine.sin32
  refine .ite (fun _ => .qnan) fun h => .ite (fun _ => .of_not_NaN ?_) fun _ => .canonical _
  rw [Bool.or_eq_true, not_or, Bool.not_eq_true] at h
  exact h.1

theorem CanonicalIfNaN.cos32 (x : F32) : CanonicalIfNaN (cos32 x) := by
  unfold Machine.cos32
  exact .ite (fun _ => .qnan) fun _ => .ite (fun _ => .of_not_NaN (by decide)) fun _ => .canonical _

theorem CanonicalIfNaN.sinh32 (x : F32) : CanonicalIfNaN (sinh32 x) := by
  unfold Machine.sinh32
  exact .ite (fun _ => .qnan) fun h => .ite (fun _ => .of_not_NaN (Bool.eq_false_of_not_eq_true h)) fun _ => .canonical _

theorem CanonicalIfNaN.pow32 (x y : F32) : CanonicalIfNaN (pow32 x y) := by
  have hone : CanonicalIfNaN C.one := .of_not_NaN (by decide)
  have hzero : CanonicalIfNaN C.zero := .of_not_NaN (by decide)
  unfold Machine.pow32
  exact .ite (fun _ => hone) fun _ => .ite (fun _ => hone) fun _ => .ite (fun _ => .qnan) fun _ =>
    .ite (fun _ => hzero) fun _ => .ite (fun _ => hzero) fun _ => .ite (fun _ => .qnan) fun _ => .canonical _

theorem fsub_NaN {x y : F32} (h : isNaN x = true ∨ isNaN y = true) : fsub x y = qnan :=
  fadd_NaN (by rwa [isNaN_fneg])

theorem fmul_NaN {x y : F32} (h : isNaN x = true ∨ isNaN y = true) : fmul x y = qnan := by
  unfold fmul
  simp [h]

theorem fdiv_NaN {x y : F32} (h : isNaN x = true ∨ isNaN y = true) : fdiv x y = qnan := by
  unfold fdiv
  simp [h]

/-! ## Comparisons (R13) -/

theorem isNaN_eq_false_iff (x : F32) : isNaN x = false ↔ magBits x ≤ 0x7F800000 := by simp [isNaN]

theorem orderKey_bounds {x : F32} (h : isNaN x = false) : -0x7F800000 ≤ orderKey x ∧ orderKey x ≤ 0x7F800000 := by
  have hmag := (isNaN_eq_false_iff x).mp h
  unfold orderKey
  split <;> omega

theorem eq_posInf_iff {x : F32} (h : isNaN x = false) : x = 0x7F800000#32 ↔ orderKey x = 0x7F800000 := by
  constructor
  · rintro rfl; decide
  · intro hkey
    have hmag := (isNaN_eq_false_iff x).mp h
    unfold orderKey at hkey
    cases hs : signBit x <;> simp only [hs, if_true, Bool.false_eq_true, if_false] at hkey
    · exact eq_of_sign_mag (by rw [hs]; decide) ((Int.ofNat.inj hkey).trans (by decide))
    · omega

theorem eq_negInf_iff {x : F32} (h : isNaN x = false) : x = 0xFF800000#32 ↔ orderKey x = -0x7F800000 := by
  constructor
  · rintro rfl; decide
  · intro hkey
    have hmag := (isNaN_eq_false_iff x).mp h
    unfold orderKey at hkey
    cases hs : signBit x <;> simp only [hs, if_true, Bool.false_eq_true, if_false] at hkey
    · omega
    · exact eq_of_sign_mag (by rw [hs]; decide) ((show magBits x = 0x7F800000 by omega).trans (by decide))

/-! ## The functions of R8 (93_implementation_defined.md I3) -/

theorem isZero_iff_pattern (y : F32) : isZero y = true ↔ y = 0x00000000#32 ∨ y = 0x80000000#32 := by
  constructor
  · intro h
    simp only [isZero, beq_iff_eq] at h
    cases hs : signBit y
    · exact .inl (eq_of_sign_mag (by rw [hs]; decide) (by rw [h]; decide))
    · exact .inr (eq_of_sign_mag (by rw [hs]; decide) (by rw [h]; decide))
  · rintro (rfl | rfl) <;> decide

theorem isZero_of_isNaN {x : F32} (h : isNaN x = true) : isZero x = false := by
  simp only [isNaN, decide_eq_true_eq] at h
  simp only [isZero, beq_eq_false_iff_ne]
  omega

theorem not_NaN_of_flt {x y : F32} (h : flt x y = true) : isNaN x = false ∧ isNaN y = false := by
  obtain ⟨hx, hy, -⟩ := (flt_iff x y).mp h
  exact ⟨hx, hy⟩

/-- R13's order has no value below itself. -/
theorem ne_of_flt {x y : F32} (h : flt x y = true) : x ≠ y := by
  rintro rfl
  obtain ⟨-, -, hlt⟩ := (flt_iff x x).mp h
  exact lt_irrefl _ hlt

theorem pow32_zero {y : F32} (x : F32) (h : isZero y = true) : pow32 x y = C.one := by
  unfold pow32
  rw [if_pos h]

theorem pow32_one (y : F32) : pow32 C.one y = C.one := by
  unfold pow32
  simp

theorem pow32_NaN {x y : F32} (h : isNaN x = true ∨ isNaN y = true) (hy : isZero y = false) (hx : x ≠ C.one) :
    pow32 x y = qnan := by
  unfold pow32
  simp [hy, hx, h]

theorem pow32_ten_negInf : pow32 C.ten negInf = C.zero := by decide +kernel

theorem pow32_posInf {x : F32} (h0 : fle C.zero x = true) (h1 : flt x C.one = true) : pow32 x posInf = C.zero := by
  have hinf : isZero posInf = false ∧ isNaN posInf = false ∧ posInf ≠ negInf := by decide
  obtain ⟨hzero, hnan, hne⟩ := hinf
  unfold pow32
  simp [hzero, hnan, hne, ne_of_flt h1, (not_NaN_of_flt h1).1, h0, h1]

theorem isIntegral_iff {y : F32} (h : isFinite y = true) : isIntegral y = true ↔ (2 ^ 149 : Int) ∣ units y := by
  rw [isIntegral, h, Bool.true_and, beq_iff_eq, ← natAbs_units, ← Nat.dvd_iff_mod_eq_zero, ← Int.natAbs_dvd_natAbs]
  rfl

/-- A zero exponent is integral, so the first law does not stand before this one. -/
theorem pow32_neg_not_integral {x y : F32} (hx : isFinite x = true) (hneg : flt x C.zero = true) (hy : isFinite y = true)
    (hint : ¬(2 ^ 149 : Int) ∣ units y) : pow32 x y = qnan := by
  have hzero : isZero y = false := (isZero_eq_false_iff y).mpr fun h => hint (h ▸ dvd_zero _)
  have hone : x ≠ C.one := by rintro rfl; revert hneg; decide +kernel
  have hinf : y ≠ negInf ∧ y ≠ posInf := by constructor <;> (rintro rfl; revert hy; decide)
  obtain ⟨hbelow, habove⟩ := hinf
  have hnot : isIntegral y = false := by rw [← Bool.not_eq_true, isIntegral_iff hy]; exact hint
  unfold pow32
  simp [hzero, hone, isNaN_of_isFinite hx, isNaN_of_isFinite hy, hbelow, habove, hx, hneg, hy, hnot]

theorem sin32_of_NaN_or_inf {x : F32} (h : isNaN x = true ∨ isInf x = true) : sin32 x = qnan := by
  unfold sin32
  simp [h]

theorem cos32_of_NaN_or_inf {x : F32} (h : isNaN x = true ∨ isInf x = true) : cos32 x = qnan := by
  unfold cos32
  simp [h]

theorem sinh32_of_NaN {x : F32} (h : isNaN x = true) : sinh32 x = qnan := by
  unfold sinh32
  simp [h]

theorem classes_of_isZero {x : F32} (h : isZero x = true) : isNaN x = false ∧ isInf x = false := by
  simp only [isZero, beq_iff_eq] at h
  simp [isNaN, isInf, h]

theorem sin32_of_zero {x : F32} (h : isZero x = true) : sin32 x = x := by
  obtain ⟨hnan, hinf⟩ := classes_of_isZero h
  unfold sin32
  simp [hnan, hinf, h]

theorem cos32_of_zero {x : F32} (h : isZero x = true) : cos32 x = C.one := by
  obtain ⟨hnan, hinf⟩ := classes_of_isZero h
  unfold cos32
  simp [hnan, hinf, h]

theorem sinh32_of_zero {x : F32} (h : isZero x = true) : sinh32 x = x := by
  unfold sinh32
  simp [(classes_of_isZero h).1, h]

end Sys2Proof.Machine

namespace Sys2Proof

open Machine

/-- Settles O20: a finite sum is the exact sum rounded once, and every other case is decided by the classes of the
operands. -/
theorem additionIsCorrectlyRounded : Obligations.AdditionIsCorrectlyRounded := fun x y =>
  ⟨fun hx hy => ⟨fun hf z _ => fadd_nearest hx hy hf z, fadd_overflow_iff hx hy, fadd_of_overflow hx hy,
    fadd_of_zero_sum hx hy⟩, fadd_inf_finite, fadd_inf_inf, congrArg (fadd x) (fneg_eq_xor y)⟩

/-- Settles O21: a finite product is the exact product rounded once, its sign apart from its magnitude. -/
theorem multiplicationIsCorrectlyRounded : Obligations.MultiplicationIsCorrectlyRounded := fun x y =>
  ⟨fun hx hy => ⟨fun hf z _ => fmul_nearest hx hy hf z, fmul_overflow_iff hx hy, fmul_sign hx hy⟩,
    fun hx hy hzero => ⟨fmul_inf_zero hx hy hzero, (fmul_comm y x).trans (fmul_inf_zero hx hy hzero)⟩,
    fun hx hy => ⟨fmul_inf_nonzero hx hy, fmul_comm y x⟩⟩

/-- Settles O22: a quotient by a nonzero value is the exact one rounded once, in steps of the divisor's magnitude. -/
theorem divisionIsCorrectlyRounded : Obligations.DivisionIsCorrectlyRounded := fun _ _ =>
  ⟨fun hx hy => ⟨fun hne => ⟨fun hf z _ => fdiv_nearest hx hy hne hf z, fdiv_overflow_iff hx hy hne, fdiv_sign hx hy hne⟩,
    fun hzero => (fdiv_by_zero hx hy hzero).1, fun hzero => (fdiv_by_zero hx hy hzero).2⟩,
    fdiv_inf_finite, fdiv_finite_inf, fdiv_inf_inf⟩

/-- Settles O23: every branch of an operation that can answer NaN answers the canonical one. -/
theorem naNResultsAreCanonical : Obligations.NaNResultsAreCanonical := by
  intro x y
  refine ⟨?_, fun h => ⟨fadd_NaN h, fsub_NaN h, fmul_NaN h, fdiv_NaN h⟩⟩
  simp only [List.forall_mem_cons]
  exact ⟨CanonicalIfNaN.fadd x y, CanonicalIfNaN.fadd x (fneg y), CanonicalIfNaN.fmul x y, CanonicalIfNaN.fdiv x y,
    CanonicalIfNaN.sin32 x, CanonicalIfNaN.cos32 x, CanonicalIfNaN.sinh32 x, CanonicalIfNaN.pow32 x y,
    List.forall_mem_nil _⟩

/-- Settles O24: a comparison is the order of the keys of two values that are not NaN, and on finite values that is the order
of the exact values; the infinities hold the two ends of the keys. -/
theorem comparisonsOrderExactValues : Obligations.ComparisonsOrderExactValues := by
  intro x y
  refine ⟨fun hx hy => ?finite, fun hx => ?infinities, fun h => ?nan, rfl, rfl⟩
  case finite =>
    rw [flt_iff, fle_iff, orderKey_lt_iff, orderKey_le_iff]
    simp [isNaN_of_isFinite hx, isNaN_of_isFinite hy]
  case infinities =>
    obtain ⟨hlow, hhigh⟩ := orderKey_bounds hx
    have htop : orderKey 0x7F800000#32 = 0x7F800000 := by decide
    have hbottom : orderKey 0xFF800000#32 = -0x7F800000 := by decide
    have hposInf : isNaN 0x7F800000#32 = false := by decide
    have hnegInf : isNaN 0xFF800000#32 = false := by decide
    simp only [← Bool.not_eq_true, ne_eq, eq_posInf_iff hx, eq_negInf_iff hx, flt_iff, fle_iff, hx, hposInf, hnegInf, htop,
      hbottom, true_and]
    omega
  case nan =>
    rw [← Bool.not_eq_true, ← Bool.not_eq_true, flt_iff, fle_iff]
    rcases h with h | h <;> simp [h]

/-- Settles O25: each special value is one branch of its function, the branches before it excluded. -/
theorem specialValuesOfTheFunctions : Obligations.SpecialValuesOfTheFunctions := by
  intro x y
  have hpos : isZero 0x00000000#32 = true := by decide
  have hneg : isZero 0x80000000#32 = true := by decide
  refine ⟨pow32_zero x hpos, pow32_zero x hneg, pow32_one y, pow32_ten_negInf, pow32_posInf, pow32_neg_not_integral,
    sin32_of_zero hpos, sin32_of_zero hneg, cos32_of_zero hpos, cos32_of_zero hneg, sinh32_of_zero hpos,
    sinh32_of_zero hneg, fun h => ?nan, fun h hy hy' => ?base, fun h hx => ?exponent, fun h => ?inf⟩
  case nan => exact ⟨sin32_of_NaN_or_inf (.inl h), cos32_of_NaN_or_inf (.inl h), sinh32_of_NaN h⟩
  case base =>
    have hzero : isZero y = false := by
      rw [← Bool.not_eq_true, isZero_iff_pattern, not_or]
      exact ⟨hy, hy'⟩
    have hone : x ≠ C.one := by rintro rfl; revert h; decide
    exact pow32_NaN (.inl h) hzero hone
  case exponent => exact pow32_NaN (.inr h) (isZero_of_isNaN h) hx
  case inf => exact ⟨sin32_of_NaN_or_inf (.inr h), cos32_of_NaN_or_inf (.inr h)⟩

end Sys2Proof
end

section
/-! SUPPORT. Where rounded sums lie in the order (R12, R13), and with that two units of a voice: the phasor (R68, R69) and
the envelope (R85, R88, R92). -/

namespace Sys2Proof.Machine

/-! ## Where a rounded sum lies in the order (R12, R13) -/

/-- The place in the order of an exact number of units, rounded. -/
def roundKey (v : Int) : Int := (if v < 0 then -1 else 1) * (roundMag v.natAbs 1 : Int)

theorem orderKey_fadd {x y : F32} (hx : isFinite x = true) (hy : isFinite y = true) :
    orderKey (fadd x y) = roundKey (units x + units y) := (fadd_order hx hy).2

theorem not_NaN_fadd {x y : F32} (hx : isFinite x = true) (hy : isFinite y = true) : isNaN (fadd x y) = false :=
  (fadd_order hx hy).1

theorem roundKey_mono {a b : Int} (h : a ≤ b) : roundKey a ≤ roundKey b := by
  unfold roundKey
  by_cases ha : a < 0 <;> by_cases hb : b < 0 <;> simp only [ha, hb, if_true, if_false]
  · have := roundMag_mono Nat.one_pos (show b.natAbs ≤ a.natAbs by omega)
    omega
  · omega
  · omega
  · have := roundMag_mono Nat.one_pos (show a.natAbs ≤ b.natAbs by omega)
    omega

/-- A value that is already a magnitude rounds to its own place. -/
theorem roundKey_unitsOfMag {m : Nat} (hm : m ≤ 0x7F800000) : roundKey (unitsOfMag m) = m := by
  have hexact : roundMag (unitsOfMag m) 1 = m := by
    have h := roundCode_exact m 1 Nat.one_pos
    rw [mul_one] at h
    unfold roundMag
    rw [h]
    exact min_eq_left hm
  have hneg : ¬((unitsOfMag m : Int) < 0) := by omega
  rw [roundKey, if_neg hneg, Int.natAbs_natCast, hexact, one_mul]

theorem roundKey_le {v : Int} {m : Nat} (hm : m ≤ 0x7F800000) (h : v ≤ unitsOfMag m) : roundKey v ≤ m :=
  (roundKey_mono h).trans_eq (roundKey_unitsOfMag hm)

theorem roundKey_nonneg {v : Int} (h : 0 ≤ v) : 0 ≤ roundKey v := by
  rw [roundKey, if_neg (not_lt.mpr h), one_mul]
  exact Int.natCast_nonneg _

theorem roundKey_nonpos {v : Int} (h : v ≤ 0) : roundKey v ≤ 0 :=
  roundKey_le (m := 0) (by decide) (by rw [unitsOfMag_zero]; exact h)

/-- The units of a value that is not negative are those of its place in the order. -/
theorem units_of_orderKey_nonneg {x : F32} {m : Nat} (h : orderKey x = m) : units x = unitsOfMag m := by
  have hzero := unitsOfMag_zero
  rw [units_eq]
  unfold orderKey at h
  cases hs : signBit x
  · simp only [hs, Bool.false_eq_true, if_false] at h ⊢
    rw [Int.ofNat.inj h, one_mul]
  · simp only [hs, if_true] at h ⊢
    have hmag : magBits x = 0 := by omega
    obtain rfl : m = 0 := by omega
    rw [hmag, hzero]; rfl

theorem isFinite_of_orderKey {x : F32} (hlow : -0x7F800000 < orderKey x) (hhigh : orderKey x < 0x7F800000) :
    isFinite x = true := by
  unfold orderKey at hlow hhigh
  rw [isFinite, decide_eq_true_eq]
  split at hlow <;> simp_all

/-- The pattern of a positive value is its place in the order. -/
theorem toNat_of_orderKey_pos {x : F32} (h : 0 < orderKey x) : (x.toNat : Int) = orderKey x := by
  have hpattern := toNat_eq x
  unfold orderKey at h ⊢
  cases hs : signBit x
  · simp only [hs, Bool.false_eq_true, if_false, zero_add] at hpattern ⊢
    exact congrArg _ hpattern
  · simp only [hs, if_true] at h
    omega

@[simp] theorem isInf_fneg (x : F32) : isInf (fneg x) = isInf x := by simp [isInf]

@[simp] theorem orderKey_fneg (x : F32) : orderKey (fneg x) = -orderKey x := by
  rw [orderKey, orderKey, signBit_fneg, magBits_fneg]
  cases signBit x <;> simp

theorem isFinite_or_isInf {x : F32} (h : isNaN x = false) : isFinite x = true ∨ isInf x = true := by
  rw [isFinite_iff, h]
  cases isInf x <;> simp

/-- The infinities lie at the two ends of the order. -/
theorem orderKey_of_isInf {x : F32} (h : isInf x = true) : orderKey x = 0x7F800000 ∨ orderKey x = -0x7F800000 := by
  simp only [isInf, beq_iff_eq] at h
  rw [orderKey, h]
  cases signBit x <;> simp

/-- A finite value less an infinity is that infinity with its sign flipped. -/
theorem fsub_inf {x y : F32} (hx : isFinite x = true) (hy : isInf y = true) : fsub x y = fneg y :=
  (fadd_inf_finite (by rwa [isInf_fneg]) hx).2

theorem fsub_finite {x y : F32} (hx : isFinite x = true) (hy : isFinite y = true) :
    isNaN (fsub x y) = false ∧ orderKey (fsub x y) = roundKey (units x - units y) := by
  have hy' : isFinite (fneg y) = true := by rwa [isFinite_fneg]
  refine ⟨not_NaN_fadd hx hy', ?_⟩
  rw [fsub, orderKey_fadd hx hy', units_fneg, sub_eq_add_neg]

theorem orderKey_one : orderKey C.one = 0x3F800000 := by decide

theorem orderKey_zero : orderKey C.zero = 0 := by decide

/-! ## The phasor (R68, R69) -/

theorem frac_NaN : frac qnan = qnan := by decide +kernel

/-- R69(d), R165: a NaN phase or increment leaves a NaN phase, whichever reading of an infinite frequency holds. -/
theorem Phasor.tick_phase_NaN {ph : Phasor} (h : isNaN ph.phase = true ∨ isNaN ph.inc = true) : ph.tick.phase = qnan := by
  rw [Phasor.tick_phase, Phasor.nextPhase_eq, fadd_NaN h, frac_NaN, ite_self]

theorem inUnitInterval_iff (x : F32) :
    fle C.zero x = true ∧ flt x C.one = true ↔ isNaN x = false ∧ 0 ≤ orderKey x ∧ orderKey x < 0x3F800000 := by
  rw [fle_iff, flt_iff, orderKey_one, orderKey_zero, show isNaN C.zero = false by decide, show isNaN C.one = false by decide]
  tauto

theorem units_le_of_orderKey_le {x : F32} {m : Nat} (h0 : 0 ≤ orderKey x) (hm : orderKey x ≤ m) :
    units x ≤ unitsOfMag m := by
  obtain ⟨k, hk⟩ := Int.eq_ofNat_of_zero_le h0
  have hle : unitsOfMag k ≤ unitsOfMag m := unitsOfMag_strictMono.monotone (by omega)
  rw [units_of_orderKey_nonneg hk]
  exact_mod_cast hle

theorem units_nonneg_of_orderKey {x : F32} (h : 0 ≤ orderKey x) : 0 ≤ units x := by
  obtain ⟨k, hk⟩ := Int.eq_ofNat_of_zero_le h
  rw [units_of_orderKey_nonneg hk]
  exact Int.natCast_nonneg _

theorem units_one : units C.one = 2 ^ 149 := by
  rw [units_of_orderKey_nonneg (m := 0x3F800000) orderKey_one,
    show unitsOfMag 0x3F800000 = 0x800000 * 2 ^ 126 from unitsOfMag_code 126 0x800000 (by decide) (by decide)]
  norm_num

theorem unitsOfMag_below_one : unitsOfMag 0x3F7FFFFF = 0xFFFFFF * 2 ^ 125 :=
  unitsOfMag_code 125 0xFFFFFF (by decide) (by decide)

theorem unitsOfMag_below_two : unitsOfMag 0x3FFFFFFF = 0xFFFFFF * 2 ^ 126 :=
  unitsOfMag_code 126 0xFFFFFF (by decide) (by decide)

theorem unitsOfMag_below_two_sub_one : unitsOfMag 0x3F7FFFFE = 0xFFFFFE * 2 ^ 125 :=
  unitsOfMag_code 125 0xFFFFFE (by decide) (by decide)

/-- Two values below 1 sum to at most the value just below 2. -/
theorem fadd_below_two {p i : F32} (hp0 : 0 ≤ orderKey p) (hp1 : orderKey p < 0x3F800000) (hi0 : 0 ≤ orderKey i)
    (hi1 : orderKey i < 0x3F800000) :
    isNaN (fadd p i) = false ∧ 0 ≤ orderKey (fadd p i) ∧ orderKey (fadd p i) ≤ (0x3FFFFFFF : Nat) := by
  have hpf : isFinite p = true := isFinite_of_orderKey (by omega) (by omega)
  have hif : isFinite i = true := isFinite_of_orderKey (by omega) (by omega)
  have hp : units p ≤ unitsOfMag 0x3F7FFFFF := units_le_of_orderKey_le hp0 (by omega)
  have hi : units i ≤ unitsOfMag 0x3F7FFFFF := units_le_of_orderKey_le hi0 (by omega)
  have hp' := units_nonneg_of_orderKey hp0
  have hi' := units_nonneg_of_orderKey hi0
  rw [orderKey_fadd hpf hif]
  refine ⟨not_NaN_fadd hpf hif, roundKey_nonneg (by omega), roundKey_le (by decide) ?_⟩
  rw [unitsOfMag_below_one] at hp hi
  rw [unitsOfMag_below_two]
  push_cast at hp hi ⊢
  omega

/-- From a value of [1, 2) the subtraction of 1 leaves one of [0, 1). -/
theorem fsub_one_below_one {x : F32} (h1 : 0x3F800000 ≤ orderKey x) (h2 : orderKey x ≤ (0x3FFFFFFF : Nat)) :
    isNaN (fsub x C.one) = false ∧ 0 ≤ orderKey (fsub x C.one) ∧ orderKey (fsub x C.one) < 0x3F800000 := by
  have hxf : isFinite x = true := isFinite_of_orderKey (by omega) (by omega)
  have hge : units C.one ≤ units x := by rw [← orderKey_le_iff, orderKey_one]; exact h1
  have hle : units x ≤ unitsOfMag 0x3FFFFFFF := units_le_of_orderKey_le (by omega) h2
  obtain ⟨hnan, hkey⟩ := fsub_finite hxf (show isFinite C.one = true by decide)
  have hbound : roundKey (units x - units C.one) ≤ (0x3F7FFFFE : Nat) := by
    refine roundKey_le (by decide) ?_
    rw [unitsOfMag_below_two] at hle
    rw [unitsOfMag_below_two_sub_one, units_one]
    push_cast at hle ⊢
    omega
  rw [hkey]
  exact ⟨hnan, roundKey_nonneg (by omega), by omega⟩

/-- R69(a), of `frac` as R68 applies it. -/
theorem frac_fadd_inUnitInterval {p i : F32} (hp : fle C.zero p = true ∧ flt p C.one = true)
    (hi : fle C.zero i = true ∧ flt i C.one = true) :
    fle C.zero (frac (fadd p i)) = true ∧ flt (frac (fadd p i)) C.one = true := by
  obtain ⟨-, hp0, hp1⟩ := (inUnitInterval_iff p).mp hp
  obtain ⟨-, hi0, hi1⟩ := (inUnitInterval_iff i).mp hi
  obtain ⟨hnan, hlow, hhigh⟩ := fadd_below_two hp0 hp1 hi0 hi1
  rw [inUnitInterval_iff]
  unfold frac
  split
  case isTrue habove =>
    obtain ⟨-, -, hge⟩ := (fge_iff _ _).mp habove
    exact fsub_one_below_one hge hhigh
  case isFalse hbelow =>
    refine ⟨hnan, hlow, lt_of_not_ge fun hge => hbelow ?_⟩
    exact (fge_iff _ _).mpr ⟨hnan, by decide, hge⟩

/-! ## The envelope (R85, R88, R92) -/

theorem clamp01_of_lt_one {x : F32} (h : fge x C.one = false) :
    clamp01 x = if flt C.zero x = true ∧ flt x C.one = true then x else C.zero := by
  unfold clamp01
  rw [if_neg (by rw [h]; decide)]
  simp only [Bool.and_eq_true]

theorem clamp01_eq (x : F32) :
    clamp01 x = if fge x C.one = true then C.one
      else if flt C.zero x = true ∧ flt x C.one = true then x else C.zero := by
  unfold clamp01
  simp only [Bool.and_eq_true]

theorem Envelope.tick_of_attack {e : Envelope} (h : e.state = .attack) (ty : EnvType) :
    e.tick ty = e.attackTick (match ty with | .ahr => .hold | .ar => .release) := by
  cases ty <;> simp only [Envelope.tick, Envelope.tickAhr, Envelope.tickAr, h]

theorem Envelope.tick_of_release {e : Envelope} (h : e.state = .release) (ty : EnvType) : e.tick ty = e.releaseTick := by
  cases ty <;> simp only [Envelope.tick, Envelope.tickAhr, Envelope.tickAr, h]

theorem Envelope.tick_of_rest {e : Envelope} (h : e.state = .rest) (ty : EnvType) : e.tick ty = e := by
  cases ty <;> simp only [Envelope.tick, Envelope.tickAhr, Envelope.tickAr, h]

theorem Envelope.tick_of_hold {e : Envelope} (h : e.state = .hold) (ty : EnvType) :
    e.tick ty = match ty with | .ahr => e | .ar => { e with state := .rest, value := C.zero } := by
  cases ty <;> simp only [Envelope.tick, Envelope.tickAhr, Envelope.tickAr, h]

/-- Outside Rest a tick returns the value after it. -/
theorem Envelope.output_of_ne_rest {e : Envelope} (h : e.state ≠ .rest) (ty : EnvType) :
    e.output ty = (e.tick ty).value := by
  unfold Envelope.output
  cases hstate : e.state
  case rest => exact absurd hstate h
  case attack | hold | release => rfl

theorem Envelope.output_of_rest {e : Envelope} (h : e.state = .rest) (ty : EnvType) : e.output ty = C.zero := by
  unfold Envelope.output
  rw [h]

/-- Neighbouring magnitudes up to 1 lie at most 2^-24 apart, which is 2^125 units. -/
theorem unitsOfMag_step_le {m : Nat} (h : m < 0x3F800000) : unitsOfMag (m + 1) ≤ unitsOfMag m + 2 ^ 125 := by
  obtain ⟨e, k, rfl, hk, hek⟩ := mag_code m
  have he : e ≤ 125 := by omega
  have hpow : 2 ^ e ≤ 2 ^ 125 := Nat.pow_le_pow_right (by decide) he
  rw [add_assoc, unitsOfMag_code e (k + 1) (by omega) (by omega), unitsOfMag_code e k (by omega) hek, add_mul, one_mul]
  omega

theorem units_release_min : units 0x33800000#32 = 2 ^ 125 := by
  rw [units_of_orderKey_nonneg (m := 0x33800000) (by decide),
    show unitsOfMag 0x33800000 = 0x800000 * 2 ^ 102 from unitsOfMag_code 102 0x800000 (by decide) (by decide)]
  norm_num

/-- A step of at least 2^-24 down from a place of the order up to that of 1 ends at least one place lower. -/
theorem orderKey_fsub_lt {v r : F32} {m : Nat} (hv : orderKey v = (m + 1 : Nat)) (hm : m < 0x3F800000)
    (hr : isNaN r = false) (hmin : orderKey 0x33800000#32 ≤ orderKey r) :
    isNaN (fsub v r) = false ∧ orderKey (fsub v r) ≤ m := by
  have hvf : isFinite v = true := isFinite_of_orderKey (by omega) (by omega)
  rcases isFinite_or_isInf hr with hrf | hrinf
  · obtain ⟨hnan, hkey⟩ := fsub_finite hvf hrf
    have hstep := unitsOfMag_step_le hm
    rw [orderKey_le_iff, units_release_min] at hmin
    rw [hkey, units_of_orderKey_nonneg hv]
    exact ⟨hnan, roundKey_le (by omega) (by zify at hstep; omega)⟩
  · have hzero : orderKey 0x33800000#32 = 0x33800000 := by decide
    rw [fsub_inf hvf hrinf, orderKey_fneg, isNaN_fneg]
    have hends := orderKey_of_isInf hrinf
    exact ⟨hr, by omega⟩

/-- From a zero the step ends at or below +0. -/
theorem orderKey_fsub_nonpos {v r : F32} (hv : orderKey v = 0) (hr : isNaN r = false) (hpos : 0 ≤ orderKey r) :
    isNaN (fsub v r) = false ∧ orderKey (fsub v r) ≤ 0 := by
  have hvf : isFinite v = true := isFinite_of_orderKey (by omega) (by omega)
  rcases isFinite_or_isInf hr with hrf | hrinf
  · obtain ⟨hnan, hkey⟩ := fsub_finite hvf hrf
    have hvu : units v = 0 := by rw [units_of_orderKey_nonneg (m := 0) hv, unitsOfMag_zero]; rfl
    have hru := units_nonneg_of_orderKey hpos
    rw [hkey]
    exact ⟨hnan, roundKey_nonpos (by omega)⟩
  · rw [fsub_inf hvf hrinf, orderKey_fneg, isNaN_fneg]
    exact ⟨hr, by omega⟩

/-- One release step of at least 2^-24 from a value of [0, 1] ends at or below +0, or leaves a positive value below 1 with a
smaller pattern. -/
theorem release_descends {v r : F32} (hv : inUnit v = true) (hr : fle 0x33800000#32 r = true)
    (habove : ¬fle (fsub v r) C.zero = true) :
    flt C.zero (fsub v r) = true ∧ flt (fsub v r) C.one = true ∧ (fsub v r).toNat < v.toNat := by
  obtain ⟨hlow, hhigh⟩ := Bool.and_eq_true_iff.mp hv
  obtain ⟨-, -, hv0⟩ := (fle_iff _ _).mp hlow
  obtain ⟨-, -, hv1⟩ := (fle_iff _ _).mp hhigh
  obtain ⟨-, hrn, hrmin⟩ := (fle_iff _ _).mp hr
  rw [orderKey_zero] at hv0
  rw [orderKey_one] at hv1
  have hmin : orderKey 0x33800000#32 = 0x33800000 := by decide
  have hzero : isNaN C.zero = false := by decide
  have hnot : isNaN (fsub v r) = false → 0 < orderKey (fsub v r) := fun hnan => by
    by_contra hle
    exact habove ((fle_iff _ _).mpr ⟨hnan, hzero, by rw [orderKey_zero]; omega⟩)
  obtain ⟨k, hk⟩ := Int.eq_ofNat_of_zero_le hv0
  cases k with
  | zero =>
    obtain ⟨hnan, hle⟩ := orderKey_fsub_nonpos hk hrn (by omega)
    exact absurd (hnot hnan) (not_lt.mpr hle)
  | succ m =>
    obtain ⟨hnan, hle⟩ := orderKey_fsub_lt hk (by omega) hrn hrmin
    have hpos := hnot hnan
    have hpattern := toNat_of_orderKey_pos hpos
    have hpattern' := toNat_of_orderKey_pos (x := v) (by omega)
    refine ⟨(flt_iff _ _).mpr ⟨hzero, hnan, by rwa [orderKey_zero]⟩, (flt_iff _ _).mpr ⟨hnan, by decide, ?_⟩, by omega⟩
    rw [orderKey_one]
    omega

/-- A tick from Release under such an increment ends in Rest at +0, or stays in Release with a smaller pattern. -/
theorem Envelope.releaseTick_descends {e : Envelope} (hstate : e.state = .release) (hv : inUnit e.value = true)
    (hr : fle 0x33800000#32 e.rinc = true) :
    (e.releaseTick.state = .rest ∧ e.releaseTick.value = C.zero) ∨
      (e.releaseTick.state = .release ∧ inUnit e.releaseTick.value = true ∧ e.releaseTick.rinc = e.rinc ∧
        e.releaseTick.value.toNat < e.value.toNat) := by
  rw [Envelope.releaseTick_eq]
  split
  case isTrue => exact .inl ⟨rfl, rfl⟩
  case isFalse habove =>
    obtain ⟨hpos, hone, hlt⟩ := release_descends hv hr habove
    have hkeep : clamp01 (fsub e.value e.rinc) = fsub e.value e.rinc := by
      have hbelow : ¬fge (fsub e.value e.rinc) C.one = true := fun hge => by
        obtain ⟨-, -, hle⟩ := (fge_iff _ _).mp hge
        obtain ⟨-, -, hlt'⟩ := (flt_iff _ _).mp hone
        omega
      rw [clamp01_eq, if_neg hbelow, if_pos ⟨hpos, hone⟩]
    exact .inr ⟨hstate, inUnit_clamp01 _, rfl, by rw [hkeep]; exact hlt⟩

theorem Envelope.release_reaches_rest (ty : EnvType) (m : Nat) (e : Envelope) (hm : e.value.toNat ≤ m)
    (hstate : e.state = .release) (hv : inUnit e.value = true) (hr : fle 0x33800000#32 e.rinc = true) :
    ∃ n, n ≤ m + 1 ∧ (((fun a : Envelope => a.tick ty)^[n]) e).state = .rest ∧
      (((fun a : Envelope => a.tick ty)^[n]) e).value = C.zero := by
  induction m generalizing e with
  | zero =>
    refine ⟨1, le_rfl, ?_⟩
    rw [Function.iterate_one, Envelope.tick_of_release hstate]
    exact (Envelope.releaseTick_descends hstate hv hr).resolve_right fun ⟨_, _, _, hlt⟩ => by omega
  | succ m ih =>
    obtain hrest | ⟨hstate', hv', hr', hlt⟩ := Envelope.releaseTick_descends hstate hv hr
    · refine ⟨1, by omega, ?_⟩
      rw [Function.iterate_one, Envelope.tick_of_release hstate]
      exact hrest
    · obtain ⟨n, hn, hend⟩ := ih e.releaseTick (by omega) hstate' hv' (by rw [hr']; exact hr)
      refine ⟨n + 1, by omega, ?_⟩
      rw [Function.iterate_succ_apply, Envelope.tick_of_release hstate]
      exact hend

end Sys2Proof.Machine

namespace Sys2Proof

open Machine

/-- Settles O26: the tick adds and subtracts once but at an infinite frequency, where the phase can be NaN too; two values
below 1 sum to at most the value just below 2. -/
theorem phaseStaysInRange : Obligations.PhaseStaysInRange := by
  rintro ph next rfl
  refine ⟨fun h => ?finite, fun _ _ => ?infinite, Phasor.tick_phase_NaN, fun hp0 hp1 hi0 hi1 => ?range⟩
  case finite =>
    refine Phasor.tick_of_not_infinite ?_
    rcases h with h | h <;> simp [Phasor.isInfinite, h]
  case infinite => exact ph.tick_cases.imp_right And.right
  case range =>
    obtain ⟨-, hlow, hhigh⟩ := (inUnitInterval_iff ph.inc).mp ⟨hi0, hi1⟩
    have hinc : isInf ph.inc = false := isInf_of_isFinite (isFinite_of_orderKey (by omega) (by omega))
    have hregular : ph.isInfinite = false := by rw [Phasor.isInfinite, hinc, Bool.and_false]
    rw [Phasor.tick_of_not_infinite hregular]
    exact frac_fadd_inUnitInterval ⟨hp0, hp1⟩ ⟨hi0, hi1⟩

/-- Settles O27: every release tick lowers the pattern until it reaches Rest, which no tick leaves. -/
theorem releaseReachesRest : Obligations.ReleaseReachesRest := by
  intro ty e hstate hv hr
  obtain ⟨n, hn, hrest, hzero⟩ := Envelope.release_reaches_rest ty e.value.toNat e le_rfl hstate hv hr
  refine ⟨n, hn, fun k => ?_⟩
  have hstay : ((fun a : Envelope => a.tick ty)^[n + k]) e = ((fun a : Envelope => a.tick ty)^[n]) e := by
    rw [add_comm, Function.iterate_add_apply]
    exact Function.iterate_fixed (Envelope.tick_of_rest hrest ty) k
  rw [hstay]
  exact ⟨hrest, hzero⟩

/-- Settles O28: one equation per state of the envelope, the clamp of R17 written out. -/
theorem attackEndsAtOne : Obligations.AttackEndsAtOne := by
  intro ty e
  refine ⟨fun h => ⟨?range, ?output, fun htop => ?top, fun hbelow => ?below⟩,
    fun h => ⟨Envelope.tick_of_rest h ty, Envelope.output_of_rest h ty⟩,
    fun h => ⟨Envelope.tick_of_hold h ty, Envelope.output_of_ne_rest (by rw [h]; decide) ty⟩,
    fun h => ⟨?release, Envelope.output_of_ne_rest (by rw [h]; decide) ty⟩⟩
  case range =>
    rw [Envelope.tick_of_attack h, Envelope.attackTick_eq]
    split
    · exact inUnit_one
    · exact inUnit_clamp01 _
  case output => exact Envelope.output_of_ne_rest (by rw [h]; decide) ty
  case top => rw [Envelope.tick_of_attack h, Envelope.attackTick_eq, if_pos htop]; rfl
  case below =>
    rw [Envelope.tick_of_attack h, Envelope.attackTick_eq, if_neg (by rw [hbelow]; decide), clamp01_of_lt_one hbelow]
    rfl
  case release =>
    rw [Envelope.tick_of_release h, Envelope.releaseTick_eq, clamp01_eq]
    rfl

end Sys2Proof
end

section
/-! SUPPORT. The other units of a voice: the biquad (R102, R105), the resonator and the bank (R106, R109, R111), the mode
frequencies and distances (R117, R118, R129), the reference values (R14, R133, R139), and the noise draws (R124). -/

namespace Sys2Proof.Machine

/-! ## What a zero leaves in a product, a sum and a quotient (R12) -/

/-- The value is NaN or one of the two zeros. -/
def NaNOrZero (x : F32) : Prop := isNaN x = true ∨ isZero x = true

theorem isFinite_of_isZero {x : F32} (h : isZero x = true) : isFinite x = true :=
  (isFinite_iff x).mpr (classes_of_isZero h)

theorem NaNOrZero.qnan : NaNOrZero qnan := .inl (by decide)

theorem isZero_withSign_zero (neg : Bool) : isZero (withSign neg 0) = true := by
  rw [isZero, magBits_withSign neg (by decide)]
  rfl

theorem roundMag_zero_left {d : Nat} (hd : 0 < d) : roundMag 0 d = 0 := by
  unfold roundMag
  rw [roundCode_zero hd]
  rfl

theorem fmul_finite_zero {x y : F32} (hx : isFinite x = true) (hy : isZero y = true) : isZero (fmul x y) = true := by
  have hunits : magUnits y = 0 := (magUnits_eq_zero_iff y).mpr ((isZero_iff y).mp hy)
  rw [fmul_finite hx (isFinite_of_isZero hy), hunits, Nat.mul_zero, roundMag_zero_left (Nat.two_pow_pos 149)]
  exact isZero_withSign_zero _

theorem NaNOrZero.fmul_right {y : F32} (x : F32) (hy : NaNOrZero y) : NaNOrZero (fmul x y) := by
  rcases hy with hnan | hzero
  · rw [fmul_NaN (.inr hnan)]
    exact .qnan
  · cases hx : isNaN x
    · rcases isFinite_or_isInf hx with hfin | hinf
      · exact .inr (fmul_finite_zero hfin hzero)
      · rw [fmul_inf_zero hinf (isFinite_of_isZero hzero) ((isZero_iff y).mp hzero)]
        exact .qnan
    · rw [fmul_NaN (.inl hx)]
      exact .qnan

theorem fadd_zeros {x y : F32} (hx : isZero x = true) (hy : isZero y = true) :
    fadd x y = withSign (signBit x && signBit y) 0 := by
  rw [fadd_finite (isFinite_of_isZero hx) (isFinite_of_isZero hy), (isZero_iff x).mp hx, (isZero_iff y).mp hy]
  rfl

theorem NaNOrZero.fadd {x y : F32} (hx : NaNOrZero x) (hy : NaNOrZero y) : NaNOrZero (fadd x y) := by
  rcases hx with hx | hx
  · rw [fadd_NaN (.inl hx)]; exact .qnan
  rcases hy with hy | hy
  · rw [fadd_NaN (.inr hy)]; exact .qnan
  rw [fadd_zeros hx hy]
  exact .inr (isZero_withSign_zero _)

theorem NaNOrZero.fneg {x : F32} (hx : NaNOrZero x) : NaNOrZero (fneg x) := by
  rwa [NaNOrZero, isNaN_fneg, isZero, magBits_fneg]

theorem NaNOrZero.fsub {x y : F32} (hx : NaNOrZero x) (hy : NaNOrZero y) : NaNOrZero (fsub x y) := hx.fadd hy.fneg

theorem NaNOrZero.fdiv_zero {x y : F32} (hx : NaNOrZero x) (hy : isZero y = true) : fdiv x y = Machine.qnan := by
  rcases hx with hx | hx
  · exact fdiv_NaN (.inl hx)
  · exact (fdiv_by_zero (isFinite_of_isZero hx) (isFinite_of_isZero hy) ((isZero_iff y).mp hy)).2 ((isZero_iff x).mp hx)

/-- Whatever is divided by a zero leaves an infinity or NaN. -/
theorem fdiv_zero_NaN_or_inf (x : F32) {y : F32} (hy : isZero y = true) :
    isNaN (fdiv x y) = true ∨ isInf (fdiv x y) = true := by
  have hyf := isFinite_of_isZero hy
  have hyu := (isZero_iff y).mp hy
  have hqnan : isNaN 0x7FC00000#32 = true := by decide
  have hends (p : Prop) [Decidable p] : isInf (if p then 0x7F800000#32 else 0xFF800000#32) = true := by
    split <;> decide
  cases hx : isNaN x
  · rcases isFinite_or_isInf hx with hfin | hinf
    · by_cases hxu : units x = 0
      · exact .inl (by rw [(fdiv_by_zero hfin hyf hyu).2 hxu]; exact hqnan)
      · exact .inr (by rw [(fdiv_by_zero hfin hyf hyu).1 hxu]; exact hends _)
    · exact .inr (by rw [fdiv_inf_finite hinf hyf]; exact hends _)
  · exact .inl (by rw [fdiv_NaN (.inl hx)]; exact hqnan)

theorem isZero_fdiv {x y : F32} (hx : isZero x = true) (hy : isFinite y = true) (hne : units y ≠ 0) :
    isZero (fdiv x y) = true := by
  have hunits : magUnits x = 0 := (magUnits_eq_zero_iff x).mpr ((isZero_iff x).mp hx)
  rw [fdiv_finite (isFinite_of_isZero hx) hy hne, hunits, Nat.zero_mul, roundMag_zero_left (magUnits_pos hne)]
  exact isZero_withSign_zero _

/-! ## The biquad (R102, R105) -/

theorem Biquad.output_eq (b : Biquad) (x : F32) :
    ∀ y, y = fsub (fsub (fadd (fadd (fmul b.co.nb0 x) (fmul b.co.nb1 b.x1)) (fmul b.co.nb2 b.x2)) (fmul b.co.na1 b.y1))
        (fmul b.co.na2 b.y2) → b.output x = if isFinite y = true then y else C.zero := by
  rintro y hy
  have houtput : b.output x = if (isNaN y || isInf y) = true then C.zero else y := by rw [hy]; rfl
  rw [houtput]
  have hclass := isFinite_iff y
  cases hn : isNaN y <;> cases hi : isInf y <;> simp [hclass, hn, hi]

/-- A NaN among the terms of R102 is replaced by +0. -/
theorem Biquad.output_of_NaN {b : Biquad} (h : isNaN b.co.nb0 = true ∨ isNaN b.co.na2 = true) (x : F32) :
    b.output x = C.zero := by
  have hqnan : isNaN qnan = true := by decide
  rw [b.output_eq x _ rfl]
  refine if_neg ?_
  rcases h with h | h
  · rw [fmul_NaN (.inl h), fadd_NaN (.inl hqnan), fadd_NaN (.inl hqnan), fsub_NaN (.inl hqnan), fsub_NaN (.inl hqnan)]
    decide
  · rw [fmul_NaN (x := b.co.na2) (.inl h), fsub_NaN (.inr hqnan)]
    decide

/-- At frequency +0 the sine of R93 is a zero, so the quotient inside the bandwidth `alpha` is NaN (R105(a)). -/
theorem bqAlphaBw_of_fc_zero {sr : F32} (hf : isFinite sr = true) (hpos : flt C.zero sr = true) (q : F32) :
    bqAlphaBw (bqOmega sr C.zero) (sin32 (bqOmega sr C.zero)) q = qnan := by
  have hne : units sr ≠ 0 := by
    obtain ⟨-, -, hlt⟩ := (flt_iff _ _).mp hpos
    rw [orderKey_lt_iff, (isZero_iff C.zero).mp (by decide)] at hlt
    exact hlt.ne'
  have hproduct : fmul C.twoPi C.zero = C.zero := by decide +kernel
  have hw0 : isZero (bqOmega sr C.zero) = true := by
    rw [bqOmega, hproduct]
    exact isZero_fdiv (by decide) hf hne
  have hsn : isZero (sin32 (bqOmega sr C.zero)) = true := by rwa [sin32_of_zero hw0]
  have hscaled : NaNOrZero (fmul (fmul (fmul C.ln2 C.half) q) (bqOmega sr C.zero)) := .fmul_right _ (.inr hw0)
  have hqnan : isNaN qnan = true := by decide
  rw [bqAlphaBw, hscaled.fdiv_zero hsn, sinh32_of_NaN hqnan, fmul_NaN (.inr hqnan)]

/-- At Q +0 the quotient of R93 is an infinity or NaN, and either makes `(1 - alpha) / (1 + alpha)` NaN (R105(b)). -/
theorem fdiv_alpha_of_q_zero (sn : F32) :
    fdiv (fsub C.one (bqAlphaQ sn C.zero)) (fadd C.one (bqAlphaQ sn C.zero)) = qnan := by
  have hone : isFinite C.one = true := by decide
  have hzero : fmul C.two C.zero = C.zero := by decide +kernel
  rw [bqAlphaQ, hzero]
  rcases fdiv_zero_NaN_or_inf sn (y := C.zero) (by decide) with hnan | hinf
  · rw [fadd_NaN (.inr hnan)]
    exact fdiv_NaN (.inr (by decide))
  · rw [fsub_inf hone hinf, (fadd_inf_finite hinf hone).2]
    exact fdiv_inf_inf (by rwa [isInf_fneg]) hinf

/-! ## The resonator and the bank (R106, R109, R111) -/

theorem Resonator.tick_of_muted {r : Resonator} (h : r.play = false) (x : F32) : r.tick x = (C.zero, r) := by
  unfold Resonator.tick
  rw [h]
  rfl

theorem Resonator.tick_of_playing {r : Resonator} (h : r.play = true) (x : F32) :
    r.tick x =
      (fadd (fmul r.cr r.yi) (fmul r.ci r.yr),
       { r with
         yr := fadd (fmul r.amp x) (fsub (fmul r.cr r.yr) (fmul r.ci r.yi))
         yi := fadd (fmul r.cr r.yi) (fmul r.ci r.yr) }) := by
  unfold Resonator.tick
  rw [h]
  rfl

/-- The sum of a bank tick: the outputs of the first `n` lanes onto the sum so far, in ascending order. -/
theorem bankTick_fst (x : F32) (n : Nat) (acc : F32) (rs : List Resonator) :
    (bankTick x n acc rs).1 = ((rs.take n).map fun r => (r.tick x).1).foldl fadd acc := by
  induction rs generalizing n acc with
  | nil => cases n <;> rfl
  | cons r rs ih =>
    cases n with
    | zero => rfl
    | succ n => exact ih n (fadd acc (r.tick x).1)

/-! ## The mode frequencies (R117, R129) -/

theorem not_NaN_fsub {c a : F32} (hc : isFinite c = true) (ha : isNaN a = false) : isNaN (fsub c a) = false := by
  rcases isFinite_or_isInf ha with haf | hai
  · exact (fsub_finite hc haf).1
  · rwa [fsub_inf hc hai, isNaN_fneg]

theorem orderKey_bounds_of_isFinite {x : F32} (h : isFinite x = true) :
    -0x7F800000 < orderKey x ∧ orderKey x < 0x7F800000 := by
  rw [isFinite, decide_eq_true_eq] at h
  unfold orderKey
  split <;> omega

/-- Subtracting the greater of two values from a finite one leaves no more, infinities among them. -/
theorem fle_fsub_of_fle {c a b : F32} (hc : isFinite c = true) (h : fle a b = true) :
    fle (fsub c b) (fsub c a) = true := by
  obtain ⟨ha, hb, hab⟩ := (fle_iff a b).mp h
  have hna := not_NaN_fsub hc ha
  have hnb := not_NaN_fsub hc hb
  refine (fle_iff _ _).mpr ⟨hnb, hna, ?_⟩
  have hlow := (orderKey_bounds hna).1
  have hhigh := (orderKey_bounds hnb).2
  rcases isFinite_or_isInf ha with haf | hai
  · rcases isFinite_or_isInf hb with hbf | hbi
    · rw [(fsub_finite hc haf).2, (fsub_finite hc hbf).2]
      rw [orderKey_le_iff] at hab
      exact roundKey_mono (by omega)
    · have hends := orderKey_of_isInf hbi
      have hbounds := orderKey_bounds_of_isFinite haf
      rw [fsub_inf hc hbi, orderKey_fneg]
      omega
  · have hends := orderKey_of_isInf hai
    have hbounds := (orderKey_bounds hb).2
    rw [fsub_inf hc hai, orderKey_fneg] at hlow ⊢
    rcases isFinite_or_isInf hb with hbf | hbi
    · have hstrict := orderKey_bounds_of_isFinite hbf
      omega
    · have hends' := orderKey_of_isInf hbi
      rw [fsub_inf hc hbi, orderKey_fneg] at hhigh ⊢
      omega

/-- Under Foldback a raw frequency beyond the fold point is reflected once. -/
theorem Voice.modeFreq_of_foldback {x : Voice} (h : x.p.foldMode = .foldback) (i : Nat) :
    x.modeFreq i =
      if flt x.p.foldPoint (fmul x.noteFreq (pow32 (x.overtone i) x.p.exponent)) = true then
        fsub (fmul C.two x.p.foldPoint) (fmul x.noteFreq (pow32 (x.overtone i) x.p.exponent))
      else fmul x.noteFreq (pow32 (x.overtone i) x.p.exponent) := by
  unfold Voice.modeFreq
  rw [h]
  rfl

theorem Voice.modeFreq_of_nyquistStop {x : Voice} (h : x.p.foldMode = .nyquistStop) (i : Nat) :
    x.modeFreq i = fmul x.noteFreq (pow32 (x.overtone i) x.p.exponent) := by
  unfold Voice.modeFreq
  rw [h]

theorem Voice.modeFreq_of_undertones {x : Voice} (h : x.p.foldMode = .undertones) (i : Nat) :
    x.modeFreq i = fdiv x.noteFreq (pow32 (x.overtone i) x.p.exponent) := by
  unfold Voice.modeFreq
  rw [h]

theorem flt_of_flt_of_fle {a b c : F32} (hab : flt a b = true) (hbc : fle b c = true) : flt a c = true := by
  obtain ⟨ha, -, hlt⟩ := (flt_iff a b).mp hab
  obtain ⟨-, hc, hle⟩ := (fle_iff b c).mp hbc
  exact (flt_iff a c).mpr ⟨ha, hc, hlt.trans_le hle⟩

/-! ## Exact conversion and the reference values (R14, R118, R133, R139) -/

/-- An integer that fits the significand is a magnitude: shifted up to 24 bits it stands at its own exponent. -/
theorem exists_unitsOfMag_eq {n : Nat} (hpos : 0 < n) (h : n < 0x1000000) :
    ∃ c, c < 0x7F800000 ∧ unitsOfMag c = n * 2 ^ 149 := by
  have hlow : 2 ^ Nat.log2 n ≤ n := Nat.log2_self_le hpos.ne'
  have hhigh : n < 2 ^ (Nat.log2 n + 1) := Nat.lt_log2_self
  have hlog : Nat.log2 n < 24 := (Nat.log2_lt hpos.ne').mpr h
  obtain ⟨j, hj⟩ : ∃ j, Nat.log2 n + j = 23 := ⟨23 - Nat.log2 n, by omega⟩
  have hmin : 0x800000 ≤ n * 2 ^ j := by
    calc 0x800000 = 2 ^ Nat.log2 n * 2 ^ j := by rw [← pow_add, hj]; rfl
      _ ≤ n * 2 ^ j := Nat.mul_le_mul_right _ hlow
  have hmax : n * 2 ^ j < 0x1000000 := by
    calc n * 2 ^ j < 2 ^ (Nat.log2 n + 1) * 2 ^ j := Nat.mul_lt_mul_of_pos_right hhigh (Nat.two_pow_pos j)
      _ = 0x1000000 := by rw [← pow_add, Nat.add_right_comm, hj]; rfl
  refine ⟨(149 - j) * 0x800000 + n * 2 ^ j, by omega, ?_⟩
  rw [unitsOfMag_code _ _ hmax.le (.inr hmin), mul_assoc, ← pow_add]
  congr 2
  omega

theorem f32OfNat_exact {n : Nat} (h : n < 0x1000000) :
    isFinite (f32OfNat n) = true ∧ units (f32OfNat n) = n * 2 ^ 149 := by
  obtain ⟨c, hc, hunits⟩ : ∃ c, c < 0x7F800000 ∧ unitsOfMag c = n * 2 ^ 149 := by
    rcases Nat.eq_zero_or_pos n with rfl | hpos
    · exact ⟨0, by decide, by rw [unitsOfMag_zero, Nat.zero_mul]⟩
    · exact exists_unitsOfMag_eq hpos h
  have hround : roundMag (n * 2 ^ 149) 1 = c := by
    have hexact := roundCode_exact c 1 Nat.one_pos
    rw [mul_one, hunits] at hexact
    unfold roundMag
    rw [hexact]
    exact min_eq_left hc.le
  unfold f32OfNat
  rw [hround, isFinite, units_eq, magBits_withSign false (by omega), signBit_withSign false (by omega), hunits]
  refine ⟨decide_eq_true hc, ?_⟩
  push_cast
  simp

/-- The factor of EVEN_GAIN is not there on mode 0, and a power of 1 is 1. -/
theorem Voice.modeDist_zero (x : Voice) : x.modeDist 0 = C.two := by
  have hone : f32OfNat (0 + 1) = C.one := by decide +kernel
  have htwo : fmul (fdiv C.two C.one) C.one = C.two := by decide +kernel
  rw [Voice.modeDist, hone, pow32_one, if_neg (by decide), htwo]

theorem dbToGain_NaN {g : F32} (h : isNaN g = true) : dbToGain g = qnan := by
  have hnan : isNaN qnan = true := by decide
  rw [dbToGain, fdiv_NaN (.inl h), pow32_NaN (.inr hnan) (by decide) (by decide)]

/-! ## Noise (R124) -/

theorem noiseDraw_range (k : Nat) : fle 0xBD4CCCCD#32 (noiseDraw k) = true ∧ fle (noiseDraw k) 0x3D4CCCCD#32 = true := by
  have hlow : fneg C.c0p05 = 0xBD4CCCCD#32 := by decide +kernel
  unfold noiseDraw
  rw [hlow]
  split
  case isTrue h => exact Bool.and_eq_true_iff.mp h
  case isFalse => decide +kernel

theorem excSignal_of_ne_noise {kind : ExcKind} (h : kind ≠ .noise) (exc : Phasor) (n n' c : F32) :
    excSignal kind exc n c = excSignal kind exc n' c := by
  cases kind
  case noise => exact absurd rfl h
  case impulses | square | chirp | impulse => rfl

end Sys2Proof.Machine

namespace Sys2Proof

open Machine

/-- Settles O29: a NaN or infinite result of the difference equation is replaced; the degenerate designs have a NaN among
their coefficients, `nb0` at `fc = 0` and `na2` at `q = 0`, which makes every result NaN. -/
theorem degenerateBiquadsAreSilent : Obligations.DegenerateBiquadsAreSilent := by
  intro b sr q fc x
  have hqnan : isNaN qnan = true := by decide
  refine ⟨fun y hy => ⟨b.output_eq x y hy, rfl⟩, b.output_finite x, fun hf hpos => ⟨?bandwidth, ?quality⟩⟩
  case bandwidth =>
    have halpha := bqAlphaBw_of_fc_zero hf hpos q
    have hsilent (t : BiquadType) (h : (b.design sr t C.zero q).co.nb0 = qnan) :
        (b.design sr t C.zero q).co.nb0 = qnan ∧ (b.design sr t C.zero q).output x = 0x00000000#32 :=
      ⟨h, Biquad.output_of_NaN (.inl (h ▸ hqnan)) x⟩
    simp only [List.forall_mem_cons]
    refine ⟨hsilent .bpfCpg ?_, hsilent .notch ?_, List.forall_mem_nil _⟩
    · change fdiv (bqAlphaBw (bqOmega sr C.zero) (sin32 (bqOmega sr C.zero)) q) _ = qnan
      rw [halpha]
      exact fdiv_NaN (.inl hqnan)
    · change fdiv _ (fadd C.one (bqAlphaBw (bqOmega sr C.zero) (sin32 (bqOmega sr C.zero)) q)) = qnan
      rw [halpha, fadd_NaN (.inr hqnan)]
      exact fdiv_NaN (.inr hqnan)
  case quality =>
    have halpha := fdiv_alpha_of_q_zero (sin32 (bqOmega sr fc))
    have hsilent (t : BiquadType) (h : (b.design sr t fc C.zero).co.na2 = qnan) :
        (b.design sr t fc C.zero).co.na2 = qnan ∧ (b.design sr t fc C.zero).output x = 0x00000000#32 :=
      ⟨h, Biquad.output_of_NaN (.inr (h ▸ hqnan)) x⟩
    simp only [List.forall_mem_cons]
    exact ⟨hsilent .lpf halpha, hsilent .hpf halpha, hsilent .apf halpha, hsilent .bpfCsg halpha, List.forall_mem_nil _⟩

/-- Settles O30: `play` is the two comparisons of R106, and it alone decides between the two arms of R109. -/
theorem outOfRangeResonatorIsMuted : Obligations.OutOfRangeResonatorIsMuted := by
  intro r sr f a d x
  refine ⟨fun h => ?out, fun h => ?inside, rfl, rfl, fun h => r.tick_of_muted h x, fun h => r.tick_of_playing h x⟩
  case out =>
    refine Resonator.tick_of_muted ?_ x
    rw [Resonator.setParams_play, resPlay]
    rcases h with h | h <;> simp [h]
  case inside => exact Bool.and_eq_true_iff.mpr h

/-- Settles O31: the sum and the resonators of a bank tick, each by induction over the lanes. -/
theorem bankSumsActiveLanesInOrder : Obligations.BankSumsActiveLanesInOrder := fun x n rs =>
  Prod.ext (bankTick_fst x n C.zero rs) (bankTick_snd x n C.zero rs)

/-- Settles O32: both frequencies are reflected, and the reflection subtracts them from one finite value. -/
theorem foldbackReflectsAndReverses : Obligations.FoldbackReflectsAndReverses := by
  refine ⟨?modes, ?order⟩
  case modes =>
    rintro x i pw rfl
    exact ⟨fun h => Voice.modeFreq_of_nyquistStop h i, fun h => Voice.modeFreq_of_undertones h i,
      fun h => Voice.modeFreq_of_foldback h i⟩
  case order =>
    rintro x y i j fx fy hx hy hpoint hfinite rfl rfl hbeyond hle
    have hbeyond' := flt_of_flt_of_fle hbeyond hle
    rw [hpoint] at hbeyond'
    rw [Voice.modeFreq_of_foldback hx, Voice.modeFreq_of_foldback hy]
    refine (congrArg₂ (fle · · = true) (if_pos hbeyond') (if_pos hbeyond)).mpr ?_
    rw [← hpoint]
    exact fle_fsub_of_fle hfinite hle

/-- Settles O33: mode 0 by the power of 1, the reference values by evaluation, and the conversion because 257 fits the
significand. -/
theorem referencePitchGainAndDistance : Obligations.ReferencePitchGainAndDistance := by
  refine ⟨fun x i => rfl, Voice.modeDist_zero, ?pitch, ?unity, ?silence, fun g => dbToGain_NaN,
    fun n hn => f32OfNat_exact (by omega)⟩
  case pitch => decide +kernel
  case unity => decide +kernel
  case silence => decide +kernel

/-- Settles O34: a draw out of range is replaced, and only the Noise arm of the excitation reads the draw. -/
theorem noiseIsBoundedAndOnlyHeardUnderNoise : Obligations.NoiseIsBoundedAndOnlyHeardUnderNoise := by
  refine ⟨noiseDraw_range, fun x sr n n' hkind => ?_⟩
  unfold Voice.tick
  dsimp only
  rw [excSignal_of_ne_noise hkind _ n n']

end Sys2Proof
end

section
/-! SUPPORT. The sample of one voice and of the engine (R122, R123, R135, R151, R179): what a voice tick leaves alone, the
parts its output is made of, the sum over the voices, and the silence of the reset state. -/

namespace Sys2Proof.Machine

/-! ## What a voice tick leaves alone (R35, R109, R123) -/

theorem bankTick_getElem? (x : F32) (n : Nat) (acc : F32) (rs : List Resonator) (m : Nat) :
    (bankTick x n acc rs).2[m]? = (rs[m]?).map fun r => if m < n then (r.tick x).2 else r := by
  induction rs generalizing n acc m with
  | nil => cases n <;> simp [bankTick]
  | cons r rs ih =>
    cases n with
    | zero => simp [bankTick]
    | succ n => cases m <;> simp [bankTick, ih]

/-- R35, R109: of a resonator the tick writes the delay state at most, of an inactive or muted one nothing. -/
theorem Voice.tick_resonator {x : Voice} {m : Nat} {r r' : Resonator} (sr n : F32) (hr : x.res[m]? = some r)
    (hr' : (x.tick sr n).2.res[m]? = some r') :
    r' = { r with yr := r'.yr, yi := r'.yi } ∧ (x.p.modeCount.toNat ≤ m ∨ r.play = false → r' = r) := by
  obtain ⟨e, raw, hbank, -, -⟩ := x.tick_res_fmt sr n
  rw [hbank, bankTick_getElem?, hr, Option.map_some, Option.some.injEq] at hr'
  split at hr'
  case isFalse =>
    subst hr'
    exact ⟨rfl, fun _ => rfl⟩
  case isTrue hactive =>
    subst hr'
    obtain ⟨yr, yi, htick⟩ := r.tick_snd e
    refine ⟨by rw [htick], fun h => ?_⟩
    have hmuted : r.play = false := h.resolve_left (by omega)
    rw [Resonator.tick_of_muted hmuted]

/-- A tick of a band writes the history of its filter alone, which shifts by one place. -/
theorem Band.tick_eq {n n' : Band} {i : F32} (h : n' = n.tick i) :
    n' = { n with filter := { n.filter with x1 := n'.filter.x1, x2 := n.filter.x1,
                                            y1 := n'.filter.y1, y2 := n.filter.y1 } } := by
  subst h
  rfl

/-! ## The parts of a voice's output (R122, R123, R135) -/

theorem fabs_eq_and (x : F32) : fabs x = x &&& 0x7FFFFFFF#32 := by unfold fabs; rfl

/-- R122 with the waveforms of R70 to R77 named, `c` the chirp. -/
theorem excSignal_eq (kind : ExcKind) (exc : Phasor) (n c : F32) :
    excSignal kind exc n c =
      match kind with
      | .noise => n
      | .impulses => fmul Config.kImpulses (Config.impTrain exc.phase exc.inc)
      | .square => fmul Config.kSquare (wfAaRect exc.phase exc.inc 0x3F000000#32)
      | .chirp => fmul Config.kChirp c
      | .impulse => 0x00000000#32 := by
  cases kind <;> rfl

/-- R135 under either architecture: the input of each band, the weighted sum and the bands after the tick. -/
theorem Formant.tick_eq (arch : FmtArch) (raw : F32) (m : Formant) :
    ∃ i1 i2 i3 : F32,
      (arch = .parallel → i1 = raw ∧ i2 = raw ∧ i3 = raw) ∧
        (arch = .cascade → i1 = m.b0.filter.output raw ∧ i2 = m.b1.filter.output i1 ∧ i3 = m.b2.filter.output i2) ∧
        m.tick arch raw =
          (fadd (fadd (fadd (fadd 0x00000000#32 (fmul m.b0.gainLin (m.b0.filter.output raw)))
              (fmul m.b1.gainLin (m.b1.filter.output i1))) (fmul m.b2.gainLin (m.b2.filter.output i2)))
            (fmul m.b3.gainLin (m.b3.filter.output i3)),
           { b0 := m.b0.tick raw, b1 := m.b1.tick i1, b2 := m.b2.tick i2, b3 := m.b3.tick i3 }) := by
  cases arch
  case parallel => exact ⟨raw, raw, raw, fun _ => ⟨rfl, rfl, rfl⟩, nofun, rfl⟩
  case cascade => exact ⟨_, _, _, nofun, fun _ => ⟨rfl, rfl, rfl⟩, rfl⟩

/-- A zero velocity squared is a zero, and so is any finite value times it. -/
theorem units_fmul_velocity_zero {out v : F32} (hout : isFinite out = true) (hv : units v = 0) :
    units (fmul out (fmul v v)) = 0 := by
  have hzero : isZero v = true := (isZero_iff v).mpr hv
  have hsquare : isZero (fmul v v) = true := fmul_finite_zero (isFinite_of_isZero hzero) hzero
  exact (isZero_iff _).mp (fmul_finite_zero hout hsquare)

/-- R123 in its own terms. -/
theorem Voice.tick_fst (sr n : F32) (x : Voice) (raw : F32)
    (hraw : raw = (bankTick (fmul (excSignal x.p.excKind x.exc.tick n (wfSine (x.tick sr n).2.chGen.phase))
      (x.env.output x.p.envType)) x.p.modeCount.toNat C.zero x.res).1) :
    (x.tick sr n).1 =
      fmul (fadd (fmul (fsub C.one x.p.fmtMix) raw) (fmul x.p.fmtMix (x.fmt.tick x.p.fmtArch raw).1))
        (fmul x.velocity x.velocity) := by
  rw [hraw]
  rfl

/-! ## The sum over the voices (R151) -/

theorem tickVoices_fst (sr : F32) (k : Nat) (acc : F32) (xs : List Voice) :
    (tickVoices sr k acc xs).1 = (xs.mapIdx fun j x => (x.tick sr (noiseDraw (k + j))).1).foldl fadd acc := by
  induction xs generalizing k acc with
  | nil => rfl
  | cons x xs ih => simp [tickVoices, ih, List.mapIdx_cons, Nat.add_assoc, Nat.add_comm 1]

theorem exec_tick (s : State) : exec .tick s = .next (s.sample.2.emit s.sample.1) := rfl

/-! ## The silence of the reset state (R179) -/

theorem fadd_zero_isZero {z : F32} (h : isZero z = true) : fadd C.zero z = C.zero := by
  have hzero : signBit C.zero = false := by decide
  rw [fadd_zeros (by decide) h, hzero, Bool.false_and, withSign_zero]
  rfl

/-- On a zero history a zero input leaves a zero, whatever the coefficients: a NaN among the terms is replaced. -/
theorem Biquad.output_of_quiet {b : Biquad} (h : b.x1 = C.zero ∧ b.x2 = C.zero ∧ b.y1 = C.zero ∧ b.y2 = C.zero) :
    isZero (b.output C.zero) = true := by
  obtain ⟨hx1, hx2, hy1, hy2⟩ := h
  have hterm (c : F32) : NaNOrZero (fmul c C.zero) := .fmul_right c (.inr (by decide))
  have hsum := ((((hterm b.co.nb0).fadd (hterm b.co.nb1)).fadd (hterm b.co.nb2)).fsub (hterm b.co.na1)).fsub
    (hterm b.co.na2)
  rw [b.output_eq C.zero _ rfl, hx1, hx2, hy1, hy2]
  split
  case isTrue hfinite => exact hsum.resolve_left (by rw [isNaN_of_isFinite hfinite]; decide)
  case isFalse => decide

/-- The weighted output of a band after reset on a zero input. -/
theorem Band.weighted_atReset (sr fc : F32) :
    isZero ((Band.atReset sr fc).weighted ((Band.atReset sr fc).filter.output C.zero)) = true :=
  fmul_finite_zero (show isFinite C.one = true by decide) (Biquad.output_of_quiet ⟨rfl, rfl, rfl, rfl⟩)

theorem Formant.tickParallel_atReset (sr f0 f1 f2 f3 : F32) :
    (Formant.tickParallel C.zero
      { b0 := Band.atReset sr f0, b1 := Band.atReset sr f1, b2 := Band.atReset sr f2, b3 := Band.atReset sr f3 }).1 =
      C.zero := by
  unfold Formant.tickParallel
  dsimp only
  rw [fadd_zero_isZero (Band.weighted_atReset sr f0), fadd_zero_isZero (Band.weighted_atReset sr f1),
    fadd_zero_isZero (Band.weighted_atReset sr f2), fadd_zero_isZero (Band.weighted_atReset sr f3)]

/-- Every resonator after reset is muted, so the one active lane adds +0. -/
theorem bankTick_atReset (n mm : Nat) : (bankTick C.zero n C.zero (List.replicate mm Resonator.atReset)).1 = C.zero := by
  induction n generalizing mm with
  | zero => rfl
  | succ n ih =>
    cases mm with
    | zero => rfl
    | succ mm =>
      rw [List.replicate_succ, bankTick, Resonator.tick_of_muted rfl, fadd_zero_isZero (by decide)]
      exact ih mm

/-- The excitation of a reset voice is the Impulse kind's +0, its envelope is in Rest and its blend all dry. -/
theorem Voice.tick_atReset (sr n : F32) (mm : Nat) : ((Voice.atReset sr mm).tick sr n).1 = C.zero := by
  have hproduct : fmul C.zero C.zero = C.zero := by decide +kernel
  have hdry : fmul (fsub C.one C.zero) C.zero = C.zero := by decide +kernel
  have hsum : fadd C.zero C.zero = C.zero := fadd_zero_isZero (by decide)
  have hraw : C.zero = (bankTick (fmul C.zero C.zero) 1 C.zero (List.replicate mm Resonator.atReset)).1 := by
    rw [hproduct, bankTick_atReset]
  rw [Voice.tick_fst sr n (Voice.atReset sr mm) C.zero hraw]
  have hfilter : (Formant.tickParallel C.zero (Voice.atReset sr mm).fmt).1 = C.zero :=
    Formant.tickParallel_atReset sr _ _ _ _
  change fmul (fadd (fmul (fsub C.one C.zero) C.zero)
    (fmul C.zero (Formant.tickParallel C.zero (Voice.atReset sr mm).fmt).1)) (fmul C.zero C.zero) = C.zero
  rw [hfilter, hdry, hproduct, hsum, hproduct]

theorem tickVoices_atReset (k nv mm : Nat) :
    (tickVoices C.n48000 k C.zero (List.replicate nv (Voice.atReset C.n48000 mm))).1 = C.zero := by
  induction nv generalizing k with
  | zero => rfl
  | succ nv ih =>
    rw [List.replicate_succ, tickVoices, Voice.tick_atReset, fadd_zero_isZero (by decide)]
    exact ih (k + 1)

end Sys2Proof.Machine

namespace Sys2Proof

open Machine

/-- Settles O40: the outputs are summed and the voices ticked by one recursion over the list, with the draws in order. -/
theorem tickSumsEveryVoice : Obligations.TickSumsEveryVoice := by
  refine ⟨rfl, zeroFieldsChecked_zeroMask .tick, fun s => ?_⟩
  rw [exec_tick, State.sample, tickVoices_fst, tickVoices_snd]
  rfl

/-- Settles O41: the fields of the voice that its tick names are those of the units ticked; the parameters of class mode are
not among those it reads. -/
theorem voiceTickFrame : Obligations.VoiceTickFrame := by
  intro x sr n
  refine ⟨rfl, rfl, rfl, ?chirp, rfl, rfl, rfl, rfl, rfl, ?modeClass, x.tick_res_length sr n,
    fun m r r' => Voice.tick_resonator sr n, ?bands⟩
  case chirp =>
    rintro f rfl
    rfl
  case modeClass =>
    rintro mc ih ex fa de eg fp er fm d y rfl
    rfl
  case bands =>
    obtain ⟨e, raw, -, -, hfmt⟩ := x.tick_res_fmt sr n
    obtain ⟨i0, i1, i2, i3, htick⟩ := x.fmt.tick_snd x.p.fmtArch raw
    rw [hfmt, htick]
    simp only [List.forall_mem_cons]
    exact ⟨Band.tick_eq rfl, Band.tick_eq rfl, Band.tick_eq rfl, Band.tick_eq rfl, List.forall_mem_nil _⟩

/-- Settles O42: the waveforms and the excitation by their definitions, the formant sum under either architecture, and a
finite blend times a zero square. -/
theorem voiceOutputIsBlendTimesSquaredVelocity : Obligations.VoiceOutputIsBlendTimesSquaredVelocity := by
  refine ⟨fun ph dt w => ⟨rfl, rfl, ?triangle, rfl, rfl, rfl, rfl⟩, fun x sr n => ?output⟩
  case triangle => rw [wfTri, fabs_eq_and]; rfl
  case output =>
    obtain ⟨s, hs⟩ : ∃ s, s = excSignal x.p.excKind x.exc.tick n (wfSine (x.tick sr n).2.chGen.phase) := ⟨_, rfl⟩
    obtain ⟨raw, hraw⟩ : ∃ raw,
        raw = (bankTick (fmul s (x.env.output x.p.envType)) x.p.modeCount.toNat C.zero x.res).1 := ⟨_, rfl⟩
    obtain ⟨i1, i2, i3, hparallel, hcascade, htick⟩ := x.fmt.tick_eq x.p.fmtArch raw
    have hout := x.tick_fst sr n raw (by rw [hraw, hs])
    have hfmt : (x.tick sr n).2.fmt = (x.fmt.tick x.p.fmtArch raw).2 := by rw [hraw, hs]; rfl
    have hbank : (raw, (x.tick sr n).2.res) =
        bankTick (fmul s (x.env.output x.p.envType)) x.p.modeCount.toNat C.zero x.res := by rw [hraw, hs]; rfl
    rw [htick] at hout hfmt
    refine ⟨s, raw, _, i1, i2, i3, ?_, hbank, hparallel, hcascade, rfl, hfmt, hout, fun hfinite hvelocity => ?_⟩
    · exact hs.trans (excSignal_eq _ _ n _)
    · rw [hout]
      exact units_fmul_velocity_zero hfinite hvelocity

/-- Settles O35: every voice after reset outputs +0, so the sum that TICK trims and emits is +0. -/
theorem resetEngineTicksSilence : Obligations.ResetEngineTicksSilence := by
  intro nv mm
  have htrimmed : fmul C.zero C.c0p1 = 0x00000000#32 := by decide +kernel
  refine ⟨_, exec_tick _, ?_⟩
  have hsample : (State.resetWith nv mm).sample.1 = 0x00000000#32 := by
    rw [← htrimmed, ← tickVoices_atReset 0 nv mm]
    rfl
  rw [hsample]
  rfl

end Sys2Proof
end

section
/-! SUPPORT. PARAM_WR and UPDATE (R116, R121, R125, R128): their accepted and refused forms, what each parameter's write does
to a voice, and broadcasts as single commands in ascending order. -/

namespace Sys2Proof.Machine

/-! ## The two ways PARAM_WR ends (R125) -/

theorem exec_paramWr (v id : Byte) (w : Word) (s : State) : exec (.paramWr v id w) s = execParamWr v id w s := rfl

theorem badParamId_of_ofByte {id : Byte} {p : ParamId} (h : ParamId.ofByte id = some p) : badParamId id = none := by
  rw [badParamId_eq_none_iff]
  simpa [h] using ParamId.ofByte_isSome id

theorem badParamValue_of_accepts {s : State} {id : Byte} {w : Word} {p : ParamId} (hp : ParamId.ofByte id = some p)
    (hw : p.accepts s.maxModes w = true) : badParamValue s id w = none := by
  simp only [badParamValue, hp, hw, if_true]

theorem badParamValue_of_not_accepts {s : State} {id : Byte} {w : Word} {p : ParamId}
    (hp : ParamId.ofByte id = some p) (hw : ¬p.accepts s.maxModes w = true) : badParamValue s id w = some .badValue := by
  simp only [badParamValue, hp, if_neg hw]

theorem exec_paramWr_accepted {s : State} {v id : Byte} {w : Word} {p : ParamId} (hv : v.toNat < s.nv ∨ v = 0xFF#8)
    (hp : ParamId.ofByte id = some p) (hw : p.accepts s.maxModes w = true) :
    exec (.paramWr v id w) s = .next (s.onTargets v (Voice.writeParam s.sr p w)) := by
  rw [exec_paramWr, execParamWr, badTarget_of_names hv, badParamId_of_ofByte hp, badParamValue_of_accepts hp hw, hp]
  rfl

/-- An accepted write on one voice and on all, with what it does to a voice named. -/
theorem exec_paramWr_targets {s : State} {id : Byte} {w : Word} {p : ParamId} {g : Voice → Voice}
    (hp : ParamId.ofByte id = some p) (hw : p.accepts s.maxModes w = true) (hg : Voice.writeParam s.sr p w = g) (v : Byte) :
    (v ≠ 0xFF#8 → v.toNat < s.nv →
        exec (.paramWr v id w) s = .next { s with voices := s.voices.modify v.toNat g }) ∧
      exec (.paramWr 0xFF#8 id w) s = .next { s with voices := s.voices.map g } := by
  subst hg
  constructor
  · intro hone hv
    rw [exec_paramWr_accepted (.inl hv) hp hw, State.onTargets_of_ne hone]
    rfl
  · rw [exec_paramWr_accepted (.inr rfl) hp hw, State.onTargets_all]
    rfl

theorem exec_paramWr_badVoice {s : State} {v : Byte} (id : Byte) (w : Word) (hv : ¬(v.toNat < s.nv ∨ v = 0xFF#8)) :
    exec (.paramWr v id w) s = .next (s.raiseIll
      { reason := .badVoice, word := (Instr.paramWr v id w).commandWord, operand := none }) := by
  rw [exec_paramWr, execParamWr, badTarget_of_not_names hv, ← illInfoOf_of_ne_badValue _ (by decide)]
  rfl

theorem exec_paramWr_badParamId {s : State} {v id : Byte} (w : Word) (hv : v.toNat < s.nv ∨ v = 0xFF#8)
    (hid : 0x12 < id.toNat) :
    exec (.paramWr v id w) s = .next (s.raiseIll
      { reason := .badParamId, word := (Instr.paramWr v id w).commandWord, operand := none }) := by
  have hbad : badParamId id = some .badParamId := if_neg (Nat.not_le.mpr hid)
  rw [exec_paramWr, execParamWr, badTarget_of_names hv, hbad, ← illInfoOf_of_ne_badValue _ (by decide)]
  rfl

/-- BAD_VALUE records the operand word too (R157). -/
theorem exec_paramWr_badValue {s : State} {v id : Byte} {w : Word} {p : ParamId} (hv : v.toNat < s.nv ∨ v = 0xFF#8)
    (hp : ParamId.ofByte id = some p) (hw : ¬p.accepts s.maxModes w = true) :
    exec (.paramWr v id w) s = .next (s.raiseIll
      { reason := .badValue, word := (Instr.paramWr v id w).commandWord, operand := some w }) := by
  rw [exec_paramWr, execParamWr, badTarget_of_names hv, badParamId_of_ofByte hp, badParamValue_of_not_accepts hp hw]
  rfl

/-! ## The write of each class (R25, R121, R125) -/

theorem Voice.modeWrite_eq (old w : Word) (store : Voice → Voice) (x : Voice) :
    x.modeWrite old w store = if w = old then x else { store x with dirty := true } := by
  unfold Voice.modeWrite
  by_cases h : w = old <;> simp [h]

/-- A mode-class register on one voice and on all: `old` reads what its write compares with and `store` stores. -/
theorem exec_paramWr_modeClass {s : State} {id : Byte} {w : Word} {p : ParamId} {old : Voice → Word}
    {store : Word → Voice → Voice} (hp : ParamId.ofByte id = some p) (hw : p.accepts s.maxModes w = true)
    (hwrite : ∀ x, Voice.writeParam s.sr p w x = x.modeWrite (old x) w (store w)) (v : Byte) :
    encode (.paramWr v id w) = [0x10#8 ++ v ++ id ++ 0x00#8, w] ∧ ZeroFieldsChecked 0x10 0x000000FF#32 1 ∧
      (v ≠ 0xFF#8 → v.toNat < s.nv →
        exec (.paramWr v id w) s = .next { s with
          voices := s.voices.modify v.toNat fun x => if w = old x then x else { store w x with dirty := true } }) ∧
      exec (.paramWr 0xFF#8 id w) s = .next { s with
        voices := s.voices.map fun x => if w = old x then x else { store w x with dirty := true } } :=
  ⟨rfl, zeroFieldsChecked_zeroMask .paramWr,
    exec_paramWr_targets hp hw (funext fun x => (hwrite x).trans (Voice.modeWrite_eq ..)) v⟩

theorem FoldMode.ofWord_code (m : FoldMode) : FoldMode.ofWord m.code = some m := by cases m <;> rfl

theorem FoldMode.code_inj {m m' : FoldMode} : m.code = m'.code ↔ m' = m := by
  refine ⟨fun h => ?_, fun h => h ▸ rfl⟩
  have hcode : some m = some m' := by rw [← ofWord_code, ← ofWord_code, h]
  exact (Option.some.inj hcode).symm

/-- FOLD_MODE's pattern is its code, so the held pattern is the held mode. -/
theorem Voice.writeParam_foldMode (sr : F32) (m : FoldMode) :
    Voice.writeParam sr .foldMode m.code = fun x =>
      if x.p.foldMode = m then x else { x with p := { x.p with foldMode := m }, dirty := true } := by
  funext x
  simp only [Voice.writeParam, FoldMode.ofWord_code, Voice.modeWrite_eq, FoldMode.code_inj]

theorem Voice.setExciter_eq (k : ExcKind) : Voice.setExciter k = fun x =>
    if x.p.excKind = .noise ∧ k ≠ .noise then
      { x with p := { x.p with excKind := k }, env := { x.env with state := .rest, value := 0x00000000#32 } }
    else { x with p := { x.p with excKind := k } } := by
  funext x
  unfold Voice.setExciter
  split <;> rfl

theorem Voice.setEnvType_eq (t : EnvType) : Voice.setEnvType t = fun x =>
    if x.p.envType = t then x
    else { x with p := { x.p with envType := t }, env := { x.env with state := .rest, value := 0x00000000#32 } } := by
  funext x
  unfold Voice.setEnvType
  by_cases h : x.p.envType = t
  · rw [if_pos h, if_neg (not_not_intro h.symm)]
  · rw [if_neg h, if_pos (Ne.symm h)]
    rfl

theorem Voice.writeParam_excKind (sr : F32) {w : Word} {k : ExcKind} (h : ExcKind.ofWord w = some k) :
    Voice.writeParam sr .excKind w = Voice.setExciter k := by
  funext x
  simp only [Voice.writeParam, h]

theorem Voice.writeParam_fmtArch (sr : F32) {w : Word} {a : FmtArch} (h : FmtArch.ofWord w = some a) :
    Voice.writeParam sr .fmtArch w = fun x => { x with p := { x.p with fmtArch := a } } := by
  funext x
  simp only [Voice.writeParam, h]

theorem Voice.writeParam_envType (sr : F32) {w : Word} {t : EnvType} (h : EnvType.ofWord w = some t) :
    Voice.writeParam sr .envType w = Voice.setEnvType t := by
  funext x
  simp only [Voice.writeParam, h]

/-! ## The two ways UPDATE ends (R128) -/

theorem exec_update (v : Byte) (s : State) :
    exec (.update v) s = runCommand (.update v) (badTarget s v) s (s.onTargets v (Voice.update s.sr)) := rfl

theorem exec_update_accepted {s : State} {v : Byte} (hv : v.toNat < s.nv ∨ v = 0xFF#8) :
    exec (.update v) s = .next (s.onTargets v (Voice.update s.sr)) := by
  rw [exec_update, badTarget_of_names hv, runCommand_none]

theorem exec_update_refused {s : State} {v : Byte} (hv : ¬(v.toNat < s.nv ∨ v = 0xFF#8)) :
    exec (.update v) s =
      .next (s.raiseIll { reason := .badVoice, word := (Instr.update v).commandWord, operand := none }) := by
  rw [exec_update, badTarget_of_not_names hv, runCommand_some, illInfoOf_of_ne_badValue _ (by decide)]

/-- R116 with the mode's resonator written out (R106, R107). -/
theorem Voice.update_eq (sr : F32) : Voice.update sr = fun x => { x with
    p := { x.p with modeCount := x.modesWritten }
    res := x.res.mapIdx fun i r =>
      if i < x.modesWritten.toNat then
        r.setParams sr (x.modeFreq i) (x.modeDist i) (fmul (x.modeDist i) x.p.decay)
      else r
    exc := { x.exc with freq := fdiv x.noteFreq x.p.excRate, inc := fdiv (fdiv x.noteFreq x.p.excRate) sr }
    chCtl := { x.chCtl with freq := fdiv x.noteFreq x.p.excRate, inc := fdiv (fdiv x.noteFreq x.p.excRate) sr }
    dirty := false } := rfl

end Sys2Proof.Machine

namespace Sys2Proof

open Machine

/-- Settles O46: every row is a mode-class register, written by `modeWrite` with the row's reader and store. -/
theorem paramWrModeClass : Obligations.ParamWrModeClass := by
  intro s v w row hrow hrange
  obtain ⟨p, hp, hwrite, hfree⟩ : ∃ p : ParamId, ParamId.ofByte row.1 = some p ∧
      (∀ x, Voice.writeParam s.sr p w x = x.modeWrite (row.2.1 x) w (row.2.2 w)) ∧
      ((row.1 = 0x00#8 ∧ p = .modeCount) ∨ p.accepts s.maxModes w = true) := by
    clear hrange
    revert row
    simp only [List.forall_mem_cons]
    exact ⟨⟨.modeCount, rfl, fun x => rfl, .inl ⟨trivial, rfl⟩⟩, ⟨.inharm, rfl, fun x => rfl, .inr rfl⟩,
      ⟨.exponent, rfl, fun x => rfl, .inr rfl⟩, ⟨.falloff, rfl, fun x => rfl, .inr rfl⟩,
      ⟨.decay, rfl, fun x => rfl, .inr rfl⟩, ⟨.evenGain, rfl, fun x => rfl, .inr rfl⟩,
      ⟨.foldPoint, rfl, fun x => rfl, .inr rfl⟩, ⟨.excRate, rfl, fun x => rfl, .inr rfl⟩, List.forall_mem_nil _⟩
  have hw : p.accepts s.maxModes w = true := by
    rcases hfree with ⟨hid, rfl⟩ | hfree
    · simpa [ParamId.accepts] using hrange hid
    · exact hfree
  exact exec_paramWr_modeClass hp hw hwrite v

/-- Settles O47: the rows are the now-class registers, whose writes take every pattern. -/
theorem paramWrNowClass : Obligations.ParamWrNowClass := by
  intro s v w
  simp only [List.forall_mem_cons]
  exact ⟨exec_paramWr_targets (p := .attack) rfl rfl rfl v, exec_paramWr_targets (p := .release) rfl rfl rfl v,
    exec_paramWr_targets (p := .fmtX) rfl rfl rfl v, exec_paramWr_targets (p := .fmtY) rfl rfl rfl v,
    exec_paramWr_targets (p := .fmtZ) rfl rfl rfl v, exec_paramWr_targets (p := .fmtLen) rfl rfl rfl v,
    exec_paramWr_targets (p := .fmtMix) rfl rfl rfl v, List.forall_mem_nil _⟩

/-- Settles O49: each row's code is legal and stands for the row's value. -/
theorem paramWrEnumerations : Obligations.ParamWrEnumerations := by
  intro s v
  simp only [List.forall_mem_append, List.forall_mem_map]
  refine ⟨⟨⟨?foldMode, ?excKind⟩, ?fmtArch⟩, ?envType⟩
  case foldMode =>
    intro row hrow
    have hcodes : ∀ row ∈ [(0#32, FoldMode.nyquistStop), (1#32, .undertones), (2#32, .foldback)],
        row.1 = row.2.code ∧ row.1.toNat ≤ 2 := by decide
    obtain ⟨hcode, hlegal⟩ := hcodes row hrow
    have hwrite := Voice.writeParam_foldMode s.sr row.2
    rw [← hcode] at hwrite
    exact exec_paramWr_targets (p := .foldMode) rfl (decide_eq_true hlegal) hwrite v
  case excKind =>
    intro row hrow
    have hcodes : ∀ row ∈ [(0#32, ExcKind.noise), (1#32, .impulses), (2#32, .square), (3#32, .chirp), (4#32, .impulse)],
        ExcKind.ofWord row.1 = some row.2 ∧ row.1.toNat ≤ 4 := by decide
    obtain ⟨hcode, hlegal⟩ := hcodes row hrow
    exact exec_paramWr_targets (p := .excKind) rfl (decide_eq_true hlegal)
      ((Voice.writeParam_excKind s.sr hcode).trans (Voice.setExciter_eq row.2)) v
  case fmtArch =>
    intro row hrow
    have hcodes : ∀ row ∈ [(0#32, FmtArch.parallel), (1#32, .cascade)],
        FmtArch.ofWord row.1 = some row.2 ∧ row.1.toNat ≤ 1 := by decide
    obtain ⟨hcode, hlegal⟩ := hcodes row hrow
    exact exec_paramWr_targets (p := .fmtArch) rfl (decide_eq_true hlegal) (Voice.writeParam_fmtArch s.sr hcode) v
  case envType =>
    intro row hrow
    have hcodes : ∀ row ∈ [(0#32, EnvType.ahr), (1#32, .ar)],
        EnvType.ofWord row.1 = some row.2 ∧ row.1.toNat ≤ 1 := by decide
    obtain ⟨hcode, hlegal⟩ := hcodes row hrow
    exact exec_paramWr_targets (p := .envType) rfl (decide_eq_true hlegal)
      ((Voice.writeParam_envType s.sr hcode).trans (Voice.setEnvType_eq row.2)) v

/-- Settles O50: each check is met only behind those before it, and the five ids that check a value are those of the
statement. -/
theorem paramWrRefusalsInOrder : Obligations.ParamWrRefusalsInOrder := by
  intro s v id w
  refine ⟨exec_paramWr_badVoice id w, exec_paramWr_badParamId w, fun hv hbad => ?_⟩
  rcases hbad with ⟨rfl, h⟩ | ⟨rfl, h⟩ | ⟨rfl, h⟩ | ⟨rfl, h⟩ | ⟨rfl, h⟩
  · refine exec_paramWr_badValue (p := .modeCount) hv rfl fun hw => h ?_
    simpa [ParamId.accepts] using hw
  · exact exec_paramWr_badValue (p := .foldMode) hv rfl fun hw => Nat.not_le.mpr h (of_decide_eq_true hw)
  · exact exec_paramWr_badValue (p := .excKind) hv rfl fun hw => Nat.not_le.mpr h (of_decide_eq_true hw)
  · exact exec_paramWr_badValue (p := .fmtArch) hv rfl fun hw => Nat.not_le.mpr h (of_decide_eq_true hw)
  · exact exec_paramWr_badValue (p := .envType) hv rfl fun hw => Nat.not_le.mpr h (of_decide_eq_true hw)

/-- Settles O53: the function of the statement is the coefficient update with the resonator's derivation written out. -/
theorem updateRecomputesTheModes : Obligations.UpdateRecomputesTheModes := by
  intro s v g
  have hupdate : Voice.update s.sr = g := by
    rw [Voice.update_eq]
    simp only [Resonator.setParams_eq]
    rfl
  refine ⟨rfl, zeroFieldsChecked_zeroMask .update, fun hone hv => ?one, ?all, fun hv hone => ?refused⟩
  case one =>
    rw [exec_update_accepted (.inl hv), State.onTargets_of_ne hone, hupdate]
    rfl
  case all =>
    rw [exec_update_accepted (.inr rfl), State.onTargets_all, hupdate]
    rfl
  case refused =>
    exact exec_update_refused (not_or_intro (Nat.not_lt.mpr hv) hone)

end Sys2Proof
end

section
/-! SUPPORT. Two runs of several commands: a broadcast against one command per voice in ascending order (R125, R128, R137),
and the round robin of two voices (R140, R141, R145). -/

namespace Sys2Proof.Machine

/-! ## A broadcast as single commands (R125) -/

/-- The state with `g` applied to the voices below `k`. -/
def State.onFirst (k : Nat) (g : Voice → Voice) (s : State) : State :=
  { s with voices := s.voices.mapIdx fun j x => if j < k then g x else x }

theorem State.onFirst_getElem? (k : Nat) (g : Voice → Voice) (s : State) (j : Nat) :
    (s.onFirst k g).voices[j]? = (s.voices[j]?).map fun x => if j < k then g x else x :=
  List.getElem?_mapIdx ..

@[simp] theorem State.onFirst_nv (k : Nat) (g : Voice → Voice) (s : State) : (s.onFirst k g).nv = s.nv :=
  List.length_mapIdx

theorem State.onFirst_zero (g : Voice → Voice) (s : State) : s.onFirst 0 g = s := by
  have hvoices : (s.onFirst 0 g).voices = s.voices := List.ext_getElem? fun j => by
    rw [State.onFirst_getElem?]
    simp
  exact congrArg (fun vs => { s with voices := vs }) hvoices

/-- One more voice in ascending order. -/
theorem State.onVoice_onFirst (k : Nat) (g : Voice → Voice) (s : State) :
    (s.onFirst k g).onVoice k g = s.onFirst (k + 1) g := by
  have hvoices : ((s.onFirst k g).onVoice k g).voices = (s.onFirst (k + 1) g).voices := List.ext_getElem? fun j => by
    rw [State.onVoice_getElem?, State.onFirst_getElem?, State.onFirst_getElem?, Option.map_map]
    congr 1
    funext x
    rcases Nat.lt_trichotomy j k with h | rfl | h
    · simp [h, h.ne', Nat.lt_succ_of_lt h]
    · simp
    · simp [h.ne, Nat.not_lt.mpr h.le, show ¬j < k + 1 by omega]
  exact congrArg (fun vs => { s with voices := vs }) hvoices

theorem State.onFirst_nv_eq_onAll (g : Voice → Voice) (s : State) : s.onFirst s.nv g = s.onAll g := by
  have hvoices : (s.onFirst s.nv g).voices = (s.onAll g).voices := List.ext_getElem? fun j => by
    rw [State.onFirst_getElem?, State.onAll_voices, List.getElem?_map]
    rcases Nat.lt_or_ge j s.nv with h | h
    · simp [h]
    · have hnone : s.voices[j]? = none := List.getElem?_eq_none h
      simp [hnone]
  exact congrArg (fun vs => { s with voices := vs }) hvoices

/-- A change that keeps the number of resonators of every voice keeps MAX_MODES. -/
theorem State.onFirst_maxModes {g : Voice → Voice} (hg : ∀ x, (g x).res.length = x.res.length) (k : Nat) (s : State) :
    (s.onFirst k g).maxModes = s.maxModes := by
  unfold State.maxModes State.onFirst
  cases s.voices with
  | nil => rfl
  | cons x xs =>
    rw [List.mapIdx_cons]
    change (if 0 < k then g x else x).res.length = x.res.length
    split
    · exact hg x
    · rfl

/-- What a run of commands does with the outcome so far: the next command runs on the state reached. -/
def thenExec (o : Host.Outcome State Fault Refusal) (i : Instr) : Host.Outcome State Fault Refusal :=
  match o with
  | .next t => exec i t
  | .fault r => .fault r
  | .refused r => .refused r

/-- Single commands that apply `g` to their voice, sent to the voices below `n` in ascending order. -/
theorem foldl_singleCommands {s : State} {f : Byte → Instr} {g : Voice → Voice} (hnv : s.nv ≤ 16)
    (hg : ∀ x, (g x).res.length = x.res.length)
    (hsingle : ∀ (t : State) (v : Byte), t.sr = s.sr → t.maxModes = s.maxModes → v.toNat < t.nv → v ≠ 0xFF#8 →
      exec (f v) t = .next (t.onVoice v.toNat g)) {n : Nat} (hn : n ≤ s.nv) :
    (List.range n).foldl (fun o v => thenExec o (f (BitVec.ofNat 8 v))) (.next s) = .next (s.onFirst n g) := by
  induction n with
  | zero => rw [State.onFirst_zero]; rfl
  | succ n ih =>
    have hv : (BitVec.ofNat 8 n).toNat = n := by
      rw [BitVec.toNat_ofNat, Nat.mod_eq_of_lt (by omega)]
    have hone : BitVec.ofNat 8 n ≠ 0xFF#8 := fun h => by
      have := congrArg BitVec.toNat h
      rw [hv] at this
      have hlimit : (0xFF#8).toNat = 255 := rfl
      omega
    rw [List.range_succ, List.foldl_append, ih (by omega)]
    change exec (f (BitVec.ofNat 8 n)) (s.onFirst n g) = _
    rw [hsingle (s.onFirst n g) _ rfl (State.onFirst_maxModes hg n s) (by rw [hv, State.onFirst_nv]; omega) hone, hv,
      State.onVoice_onFirst]

theorem broadcast_eq_singleCommands {s : State} {f : Byte → Instr} {g : Voice → Voice} (hnv : s.nv ≤ 16)
    (hg : ∀ x, (g x).res.length = x.res.length)
    (hboth : ∀ (t : State) (v : Byte), t.sr = s.sr → t.maxModes = s.maxModes → (v.toNat < t.nv ∨ v = 0xFF#8) →
      exec (f v) t = .next (t.onTargets v g)) :
    exec (f 0xFF#8) s = (List.range s.nv).foldl (fun o v => thenExec o (f (BitVec.ofNat 8 v))) (.next s) := by
  have hsingle (t : State) (v : Byte) (hsr : t.sr = s.sr) (hmm : t.maxModes = s.maxModes) (hv : v.toNat < t.nv)
      (hone : v ≠ 0xFF#8) : exec (f v) t = .next (t.onVoice v.toNat g) := by
    rw [hboth t v hsr hmm (.inl hv), State.onTargets_of_ne hone]
  rw [foldl_singleCommands hnv hg hsingle le_rfl, State.onFirst_nv_eq_onAll, hboth s _ rfl rfl (.inr rfl),
    State.onTargets_all]

/-- What PARAM_WR's checks let through names a parameter that accepts the value. -/
theorem accepts_of_checks {s : State} {v id : Byte} {w : Word}
    (h : (badTarget s v <|> badParamId id <|> badParamValue s id w) = none) :
    ∃ p, ParamId.ofByte id = some p ∧ p.accepts s.maxModes w = true := by
  rw [Option.orElse_eq_none, Option.orElse_eq_none, badParamId_eq_none_iff] at h
  obtain ⟨-, hid, hvalue⟩ := h
  have hsome : (ParamId.ofByte id).isSome = true := by rw [ParamId.ofByte_isSome, decide_eq_true hid]
  obtain ⟨p, hp⟩ := Option.isSome_iff_exists.mp hsome
  refine ⟨p, hp, ?_⟩
  by_contra hw
  rw [badParamValue_of_not_accepts hp hw] at hvalue
  cases hvalue

/-! ## The slots of a key event (R140, R141) -/

theorem exec_keyDown_slots {s : State} {n : Byte} {k : Nat} (vel : F32) (hn : n.toNat < 128)
    (hk : freeSlot s.slots s.nv s.last = some k) :
    ∃ t, exec (.keyDown n vel) s = .next t ∧ t.nv = s.nv ∧ t.slots = s.slots.set k (some (n.setWidth 7)) ∧ t.last = k :=
  ⟨_, exec_keyDown_free vel hn hk, State.onVoice_nv _ _ _, rfl, rfl⟩

theorem exec_keyUp_slots {s : State} {n : Byte} {k : Nat} (hn : n.toNat < 128)
    (hheld : s.slots[k]? = some (some (n.setWidth 7))) (hlowest : ∀ j, j < k → s.slots[j]? ≠ some (some (n.setWidth 7))) :
    ∃ t, exec (.keyUp n) s = .next t ∧ t.nv = s.nv ∧ t.slots = s.slots.set k none ∧ t.last = s.last := by
  refine ⟨_, exec_keyUp_accepted hn, ?_⟩
  rw [State.keyUp_of_lowest hheld hlowest]
  exact ⟨State.onVoice_nv _ _ _, rfl, rfl⟩

/-- The slots of two voices once note 60 is in slot `k` and note 64 in slot `k'`. -/
def slotsTaken (k k' : Nat) : List (Option (BitVec 7)) := (([none, none] : List _).set k (some 60#7)).set k' (some 64#7)

/-- The trace of R145 from two free slots, by what the scans of its five key events find: slot `k`, slot `k'`, no slot, the
slot of note 60, and slot `k` again. -/
theorem roundRobin_trace {s : State} {k k' : Nat} (vel : F32) (hnv : s.nv = 2) (hslots : s.slots = [none, none])
    (hfirst : freeSlot [none, none] 2 s.last = some k)
    (hsecond : freeSlot (([none, none] : List _).set k (some 60#7)) 2 k = some k')
    (hfull : freeSlot (slotsTaken k k') 2 k' = none) (hheld : (slotsTaken k k')[k]? = some (some 60#7))
    (hlowest : ∀ j, j < k → (slotsTaken k k')[j]? ≠ some (some 60#7))
    (hagain : freeSlot ((slotsTaken k k').set k none) 2 k' = some k) :
    ∃ s1 s2 s4 s5 : State,
      exec (.keyDown 60#8 vel) s = .next s1 ∧ exec (.keyDown 64#8 vel) s1 = .next s2 ∧
        exec (.keyDown 67#8 vel) s2 = .next s2 ∧ exec (.keyUp 60#8) s2 = .next s4 ∧
        exec (.keyDown 67#8 vel) s4 = .next s5 ∧
        s2.slots = slotsTaken k k' ∧ s5.slots = ((slotsTaken k k').set k none).set k (some 67#7) := by
  obtain ⟨s1, hexec1, hnv1, hslots1, hlast1⟩ := exec_keyDown_slots (s := s) (n := 60#8) (k := k) vel (by decide)
    (by rw [hnv, hslots]; exact hfirst)
  rw [hslots] at hslots1
  rw [hnv] at hnv1
  obtain ⟨s2, hexec2, hnv2, hslots2, hlast2⟩ := exec_keyDown_slots (s := s1) (n := 64#8) (k := k') vel (by decide)
    (by rw [hnv1, hslots1, hlast1]; exact hsecond)
  have htaken : s2.slots = slotsTaken k k' := by rw [hslots2, hslots1]; rfl
  rw [hnv1] at hnv2
  have hdropped : exec (.keyDown 67#8 vel) s2 = .next s2 :=
    exec_keyDown_full vel (by decide) (by rw [htaken, hnv2, hlast2]; exact hfull)
  obtain ⟨s4, hexec4, hnv4, hslots4, hlast4⟩ := exec_keyUp_slots (s := s2) (n := 60#8) (k := k) (by decide)
    (by rw [htaken]; exact hheld) (by rw [htaken]; exact hlowest)
  rw [htaken] at hslots4
  rw [hnv2] at hnv4
  obtain ⟨s5, hexec5, -, hslots5, -⟩ := exec_keyDown_slots (s := s4) (n := 67#8) (k := k) vel (by decide)
    (by rw [hnv4, hslots4, hlast4, hlast2]; exact hagain)
  rw [hslots4] at hslots5
  exact ⟨s1, s2, s4, s5, hexec1, hexec2, hdropped, hexec4, hexec5, htaken, hslots5⟩

end Sys2Proof.Machine

namespace Sys2Proof

open Machine

/-- Settles O18: each of the three commands applies one function to its targets, the same in every state of the run, for the
run keeps the rate and MAX_MODES that it depends on. -/
theorem broadcastEqualsSingleCommands : Obligations.BroadcastEqualsSingleCommands := by
  intro s f hnv hlegal hf
  have hchecks := (firstRefusal_eq_none_iff s (f 0xFF#8)).mpr hlegal
  rcases hf with ⟨id, w, rfl⟩ | rfl | ⟨b, gain, rfl⟩
  · obtain ⟨p, hp, hw⟩ := accepts_of_checks hchecks
    refine broadcast_eq_singleCommands (f := fun v => .paramWr v id w) hnv (g := Voice.writeParam s.sr p w)
      (fun x => by simp) fun t v hsr hmm hv => ?_
    rw [exec_paramWr_accepted hv hp (by rw [hmm]; exact hw), hsr]
  · refine broadcast_eq_singleCommands hnv (g := Voice.update s.sr) (fun x => by simp) fun t v hsr _ hv => ?_
    rw [exec_update_accepted hv, hsr]
  · have hb : b.toNat < 4 := by
      rw [firstRefusal, Option.orElse_eq_none, badBand_eq_none_iff] at hchecks
      exact hchecks.2
    exact broadcast_eq_singleCommands (f := fun v => .formantGain v b gain) hnv
      (g := Voice.onBand b.toNat (Band.setGain gain)) (fun x => rfl) fun t v _ _ hv => exec_formantGain_accepted gain hv hb

/-- Settles O19: with the cursor on either slot the scans find the other, none, and the one vacated. -/
theorem roundRobinReusesTheVacatedSlot : Obligations.RoundRobinReusesTheVacatedSlot := by
  intro s vel hnv hslots hlast
  have hcursor : s.last = 0 ∨ s.last = 1 := by omega
  rcases hcursor with h | h
  · rw [h]
    exact roundRobin_trace (k := 1) (k' := 0) vel hnv hslots (by rw [h]; decide) (by decide) (by decide) (by decide)
      (by decide) (by decide)
  · rw [h]
    exact roundRobin_trace (k := 0) (k' := 1) vel hnv hslots (by rw [h]; decide) (by decide) (by decide) (by decide)
      (by decide) (by decide)

end Sys2Proof
end
